-- ==== Sys2Proof/Word.lean ====
section
/-! DEFINITION. The word types of the FSCV (00_scope.md R8): host data words, host byte addresses, bytes. -/

namespace Sys2Proof

/-- A stream or buffer byte (R8). -/
abbrev Byte := BitVec 8

/-- A host data word, and a command word (R8). -/
abbrev Word := BitVec 32

/-- A host byte address, `0x00000` to `0x3FFFF` (R8). -/
abbrev Addr := BitVec 18

end Sys2Proof
end

