-- ==== Sys2Proof/Syntax.lean ====
section
/-! DEFINITION. The FSCV commands, one constructor per row of spec/opcode_table.json. -/

namespace Sys2Proof

/-- The buffer select operand SEL: 0 is TXBUF, 1 is RXBUF (30_encoding.md R84). -/
inductive Sel where
  | tx
  | rx
deriving DecidableEq, Repr

/-- The nine commands (30_encoding.md R87), with the operands of their formats (R81 to R85). -/
inductive Instr where
  /-- format N, OPC 0x00 (44_control.md R204) -/
  | nop
  /-- format L, OPC 0x01 (40_checksum.md R104) -/
  | lcsGen (len16 : BitVec 16)
  /-- format S, OPC 0x02 (40_checksum.md R105) -/
  | dcsGen (sel : Sel)
  /-- format B, OPC 0x03 (41_frame_reader.md R123) -/
  | preStep (byte : Byte)
  /-- format N, OPC 0x04 (41_frame_reader.md R124) -/
  | preClr
  /-- format N, OPC 0x05 (41_frame_reader.md R125) -/
  | readFrame
  /-- format N, OPC 0x06 (42_frame_writer.md R160) -/
  | writeFrame
  /-- format T, OPC 0x07 (43_tlv.md R180) -/
  | findTag (tag : Byte) (sel : Sel)
  /-- exactly the word 0x0000000F (44_control.md R205) -/
  | abort
deriving DecidableEq, Repr

end Sys2Proof
end

