-- ==== Sys2Proof/WellFormed.lean ====
section
/-! DEFINITION. Which command words are defined (30_encoding.md R87, R88), written from the match and mask that each
command's rule gives, independently of the decoder; and which instruction terms are well formed. -/

namespace Sys2Proof

/-- One row of the opcode map: a word `w` belongs to it when `w` under `mask` is `pattern`. -/
structure OpcodeRow where
  mnemonic : String
  mask : Word
  pattern : Word
deriving DecidableEq, Repr

/-- The opcode map (30_encoding.md R87) with the masks that R104, R105, R123, R180 and formats N (R81) give. -/
def opcodeRows : List OpcodeRow :=
  [ ⟨"NOP",         0xFFFFFFFF#32, 0x00000000#32⟩,
    ⟨"LCS_GEN",     0xFF0000FF#32, 0x00000001#32⟩,
    ⟨"DCS_GEN",     0xFFFEFFFF#32, 0x00000002#32⟩,
    ⟨"PRE_STEP",    0xFFFF00FF#32, 0x00000003#32⟩,
    ⟨"PRE_CLR",     0xFFFFFFFF#32, 0x00000004#32⟩,
    ⟨"READ_FRAME",  0xFFFFFFFF#32, 0x00000005#32⟩,
    ⟨"WRITE_FRAME", 0xFFFFFFFF#32, 0x00000006#32⟩,
    ⟨"FIND_TAG",    0xFFFE00FF#32, 0x00000007#32⟩,
    ⟨"ABORT",       0xFFFFFFFF#32, 0x0000000F#32⟩ ]

/-- The word belongs to a row of the opcode map. -/
def OpcodeRow.covers (r : OpcodeRow) (w : Word) : Bool := w &&& r.mask == r.pattern

/-- A word is defined "when its OPC has a command and every bit its format does not name is 0" (R87). -/
def definedWord (w : Word) : Bool := opcodeRows.any (·.covers w)

/-- Every operand is a bit field taken as is (R86), and its type has exactly the field's width, so every term is a
command that can be encoded: the checks that can fail are those on words, `definedWord`. -/
def Instr.wellFormed : Instr → Bool
  | .nop => true
  | .lcsGen _ => true
  | .dcsGen _ => true
  | .preStep _ => true
  | .preClr => true
  | .readFrame => true
  | .writeFrame => true
  | .findTag _ _ => true
  | .abort => true

end Sys2Proof
end

