-- ==== Sys2Proof/Decode.lean ====
section
/-! DEFINITION. Decoding a command word (30_encoding.md R80 to R89), the encoder beside it, and the host's view of the
decoder. -/

namespace Sys2Proof

/-- Why a word is not defined (30_encoding.md R88). Both kinds are illegal words to the FSCV. -/
inductive Undefined where
  /-- opcodes 0x08 to 0x0E and 0x10 to 0xFF -/
  | reservedOpcode (opc : Byte)
  /-- a defined opcode with a non-zero bit that its format does not name -/
  | reservedBits (opc : Byte)
deriving DecidableEq, Repr

/-- OPC, bits [7:0] of the command word (R80). -/
def opcodeOf (w : Word) : Byte := w.extractLsb' 0 8

/-- The command word's bits [31:8], latched into ARG at acceptance (10_state.md R47). -/
def argOf (w : Word) : BitVec 24 := w.extractLsb' 8 24

/-- SEL = 0 selects TXBUF and SEL = 1 selects RXBUF (R84). -/
def Sel.ofBit : Bool → Sel
  | false => .tx
  | true => .rx

/-- The decoder's answer when the bits outside the format's fields are 0 or not (R80, R88). -/
def ifReservedZero (zero : Bool) (w : Word) (i : Instr) : Except Undefined Instr :=
  if zero then .ok i else .error (.reservedBits (opcodeOf w))

/-- Format N: bits [31:8] must be 0 (R81). -/
def formatN (w : Word) (i : Instr) : Except Undefined Instr :=
  ifReservedZero (w.extractLsb' 8 24 == 0#24) w i

/-- Format L: `len16 = word[23:8]`, bits [31:24] must be 0 (R82). -/
def formatL (w : Word) (i : BitVec 16 → Instr) : Except Undefined Instr :=
  ifReservedZero (w.extractLsb' 24 8 == 0#8) w (i (w.extractLsb' 8 16))

/-- Format B: `BYTE = word[15:8]`, bits [31:16] must be 0 (R83). -/
def formatB (w : Word) (i : Byte → Instr) : Except Undefined Instr :=
  ifReservedZero (w.extractLsb' 16 16 == 0#16) w (i (w.extractLsb' 8 8))

/-- Format S: `SEL = word[16]`, bits [31:17] and [15:8] must be 0 (R84). -/
def formatS (w : Word) (i : Sel → Instr) : Except Undefined Instr :=
  ifReservedZero (w.extractLsb' 17 15 == 0#15 && w.extractLsb' 8 8 == 0#8) w (i (Sel.ofBit (w.getLsbD 16)))

/-- Format T: `TAG = word[15:8]`, `SEL = word[16]`, bits [31:17] must be 0 (R85). -/
def formatT (w : Word) (i : Byte → Sel → Instr) : Except Undefined Instr :=
  ifReservedZero (w.extractLsb' 17 15 == 0#15) w (i (w.extractLsb' 8 8) (Sel.ofBit (w.getLsbD 16)))

/-- The decoder: the opcode map of 30_encoding.md R87. "A decoder needs only the word" (R80). -/
def decode (w : Word) : Except Undefined Instr :=
  if opcodeOf w = 0x00#8 then formatN w .nop
  else if opcodeOf w = 0x01#8 then formatL w .lcsGen
  else if opcodeOf w = 0x02#8 then formatS w .dcsGen
  else if opcodeOf w = 0x03#8 then formatB w .preStep
  else if opcodeOf w = 0x04#8 then formatN w .preClr
  else if opcodeOf w = 0x05#8 then formatN w .readFrame
  else if opcodeOf w = 0x06#8 then formatN w .writeFrame
  else if opcodeOf w = 0x07#8 then formatT w .findTag
  else if opcodeOf w = 0x0F#8 then formatN w .abort
  else .error (.reservedOpcode (opcodeOf w))

/-- The command word of an instruction, as 30_encoding.md R90 assembles it. -/
def encode : Instr → Word
  | .nop => 0x00000000#32
  | .lcsGen len16 => (len16.zeroExtend 32 <<< 8) ||| 0x01#32
  | .dcsGen .tx => 0x00000002#32
  | .dcsGen .rx => 0x00010002#32
  | .preStep byte => (byte.zeroExtend 32 <<< 8) ||| 0x03#32
  | .preClr => 0x00000004#32
  | .readFrame => 0x00000005#32
  | .writeFrame => 0x00000006#32
  | .findTag tag .tx => (tag.zeroExtend 32 <<< 8) ||| 0x07#32
  | .findTag tag .rx => 0x00010000#32 ||| (tag.zeroExtend 32 <<< 8) ||| 0x07#32
  | .abort => 0x0000000F#32

/-- The one ABORT word (R89). -/
def abortWord : Word := 0x0000000F#32

/-- The instruction the decoder reads from an instruction of `nbits` bits whose bits are `w`; a command is one word
(R80), so bits at or above 32 belong to no command. -/
def decodeTableWord (nbits w : Nat) : Option Instr :=
  if w % 2 ^ nbits < 2 ^ 32 then (decode (BitVec.ofNat 32 (w % 2 ^ nbits))).toOption else none

end Sys2Proof
end

