-- ==== Sys2Proof/Config.lean ====
section
/-! DEFINITION. What an implementation fixes, and the free value of the FSCV model.
The parameters that differ from one FSCV to another and that software can read (TXBUF_CAP, RXBUF_CAP) are fields of
State that no step writes; the latencies are drawn from a field of State (log entries 1 and 2). -/

namespace Sys2Proof.Config

/-- ID reads this word, across reset too (10_state.md R21). -/
def idWord : Word := 0x46530001#32

/-- The default of TXBUF_CAP and of RXBUF_CAP (00_scope.md R7). -/
def defaultCap : BitVec 16 := 256#16

/-- FREE VALUE (log entry 3). What a buffer byte holds that nothing has written since the last reset edge:
"each byte arbitrary and independent" (70_reset_and_hazards.md R251, 93_implementation_defined.md section 1). The first
argument counts the reset edges, the second is the byte's host address. -/
opaque bufferByte : Nat → Nat → Byte

end Sys2Proof.Config
end

