-- ==== Sys2Proof/Machine/State.lean ====
section
/-! DEFINITION. The state of the FSCV (10_state.md), as plain data; the outside agents' inputs; the reset state; and the
reasons a step can stop (there is none). -/

namespace Sys2Proof.Machine

/-- STATUS.SYNC, the preamble automaton's state, numbered from 0 (41_frame_reader.md R120). -/
inductive Sync where
  | waitPre
  | waitSb1
  | waitSb2
  | matched
deriving DecidableEq, Repr

/-- STATUS.PHASE, where READ_FRAME is in a frame, numbered from 0; 9 to 15 are never produced (10_state.md R31). -/
inductive Phase where
  | idle
  | sync
  | lenH
  | lenL
  | lcs
  | ackPost
  | pay
  | dcs
  | post
deriving DecidableEq, Repr

/-- The completion codes, numbered from 0; 10 to 15 are reserved and never written (60_exceptions.md R220, R221). -/
inductive Code where
  | ok
  | timeout
  | shortRead
  | lcsErr
  | dcsErr
  | overflow
  | notFound
  | range
  | illegal
  | aborted
deriving DecidableEq, Repr

/-- The host's transaction in one cycle, at most one (20_memory.md R60). -/
inductive HostTxn where
  | none
  | read (addr : Addr)
  | write (addr : Addr) (v : Word)
deriving DecidableEq, Repr

/-- What the outside agents present in the cycle that ends at an edge (00_scope.md R13, 70_reset_and_hazards.md R250). -/
structure Input where
  rst : Bool
  host : HostTxn
  rxValid : Bool
  rxData : Byte
  txReady : Bool
  tick : Bool
deriving DecidableEq, Repr

/-- A cycle in which no outside agent does anything. -/
def Input.quiet : Input :=
  { rst := false, host := .none, rxValid := false, rxData := 0#8, txReady := false, tick := false }

/-- The two byte buffers as (host byte address, byte) pairs: TXBUF byte `i` at `0x10000 + i`, RXBUF byte `i` at
`0x20000 + i` (20_memory.md R64), addresses strictly rising, holding the bytes written since the last reset edge. -/
abbrev Memory := List Host.Cell

/-- All the state of the FSCV, and the environment's data the step reads. -/
structure State where
  /-- CAPS[15:0], a parameter: no step writes it (00_scope.md R7, 10_state.md R45) -/
  txbufCap : BitVec 16
  /-- CAPS[31:16], a parameter: no step writes it -/
  rxbufCap : BitVec 16
  /-- CFG.IE (R22) -/
  ie : Bool
  /-- CFG.MARKER (R22) -/
  marker : Byte
  /-- STATUS.BUSY (R25) -/
  busy : Bool
  /-- STATUS.DONE (R26) -/
  done : Bool
  /-- STATUS.IS_ACK (R27) -/
  isAck : Bool
  /-- STATUS.BWE (R28) -/
  bwe : Bool
  /-- STATUS.SYNC (R29) -/
  sync : Sync
  /-- STATUS.ERR (R30) -/
  err : Code
  /-- STATUS.PHASE (R31) -/
  phase : Phase
  /-- STATUS.LAST_OP and the hidden OP, the same register (R32, R47) -/
  op : Byte
  /-- hidden ARG (R47) -/
  arg : BitVec 24
  /-- hidden PEND_ERR, `ok` for 0 (R47) -/
  pendErr : Code
  /-- DEADLINE (R33) -/
  deadline : BitVec 32
  /-- ELAPSED (R34) -/
  elapsed : BitVec 32
  /-- TX_LEN.LEN (R35) -/
  txLen : BitVec 16
  /-- TX_CNT (R36) -/
  txCnt : BitVec 17
  /-- RX_LEN (R37) -/
  rxLen : BitVec 16
  /-- RX_CNT (R38) -/
  rxCnt : BitVec 16
  /-- RX_CHK.LCS_RX (R39) -/
  lcsRx : Byte
  /-- RX_CHK.DCS_RX (R39) -/
  dcsRx : Byte
  /-- RX_CHK.POST_RX (R39) -/
  postRx : Byte
  /-- RX_CHK.DCS_CALC (R39) -/
  dcsCalc : Byte
  /-- RX_TOTAL (R40) -/
  rxTotal : BitVec 32
  /-- WIN_BASE (R41) -/
  winBase : BitVec 16
  /-- WIN_LEN (R42) -/
  winLen : BitVec 16
  /-- RES[7:0] (R43) -/
  res : Byte
  /-- TLV_RES.VAL_OFF (R44) -/
  tlvOff : BitVec 16
  /-- TLV_RES.VAL_LEN (R44) -/
  tlvLen : Byte
  /-- TLV_RES.FOUND (R44) -/
  tlvFound : Bool
  /-- TXBUF and RXBUF (R48) -/
  mem : Memory
  /-- the model's own: reset edges so far, so that each makes the buffers unspecified anew (log entry 3) -/
  epoch : Nat
  /-- the model's own: execution edges left to the completion edge of DCS_GEN or FIND_TAG (log entry 2) -/
  latLeft : Nat
  /-- the model's own: the free draws of LAT_DCS and LAT_TLV to come (log entry 2) -/
  latDraws : List Nat
  /-- the model's own: what the outside agents present at the coming edges, the next edge first (log entry 4) -/
  inputs : List Input
  /-- the model's own: the bytes the TX sink has taken, oldest first (log entry 8) -/
  txSent : List Byte
  /-- the model's own: the words the host's reads returned, oldest first (log entry 8) -/
  hostReads : List Word
deriving DecidableEq, Repr

/-- What the outside agents present in the cycle that ends at the next edge; an exhausted script is quiet
(log entry 4). -/
def State.input (s : State) : Input := s.inputs.headD Input.quiet

/-- A step never faults: the bus never signals an error (20_memory.md R60) and every failure is a completion code
(60_exceptions.md R220). The type has no constructor (log entry 7). -/
inductive Fault where
deriving DecidableEq, Repr

/-- Why a step can refuse. -/
inductive Refusal where
  /-- Raised by an arm of `exec` whose instruction has no meaning yet; no arm does. Safe: the model stops. -/
  | notModelled (mnemonic : String)
deriving DecidableEq, Repr

/-- The state after a reset edge (10_state.md R50, 70_reset_and_hazards.md R251), with the default capacities. -/
def State.reset : State where
  txbufCap := Config.defaultCap
  rxbufCap := Config.defaultCap
  ie := false
  marker := 0x5F#8
  busy := false
  done := false
  isAck := false
  bwe := false
  sync := .waitPre
  err := .ok
  phase := .idle
  op := 0x00#8
  arg := 0#24
  pendErr := .ok
  deadline := 0x000003E8#32
  elapsed := 0#32
  txLen := 0#16
  txCnt := 0#17
  rxLen := 0#16
  rxCnt := 0#16
  lcsRx := 0#8
  dcsRx := 0#8
  postRx := 0#8
  dcsCalc := 0#8
  rxTotal := 0#32
  winBase := 0#16
  winLen := 0#16
  res := 0#8
  tlvOff := 0#16
  tlvLen := 0#8
  tlvFound := false
  mem := []
  epoch := 0
  latLeft := 0
  latDraws := []
  inputs := []
  txSent := []
  hostReads := []

end Sys2Proof.Machine
end

