-- ==== Sys2Proof/Machine/Operands.lean ====
section
/-! DEFINITION. Operands: the latched command word, the named operand registers, the window and its bounds, and the
address arithmetic of the two buffers. -/

namespace Sys2Proof.Machine

/-- The executing command: the one named by OP (44_control.md R208), its operands taken from ARG (30_encoding.md R86).
The bits of ARG that the format does not name were judged at acceptance and are in PEND_ERR (10_state.md R47). -/
def executing (s : State) : Option Instr :=
  if s.op = 0x00#8 then some .nop
  else if s.op = 0x01#8 then some (.lcsGen (s.arg.extractLsb' 0 16))
  else if s.op = 0x02#8 then some (.dcsGen (Sel.ofBit (s.arg.getLsbD 8)))
  else if s.op = 0x03#8 then some (.preStep (s.arg.extractLsb' 0 8))
  else if s.op = 0x04#8 then some .preClr
  else if s.op = 0x05#8 then some .readFrame
  else if s.op = 0x06#8 then some .writeFrame
  else if s.op = 0x07#8 then some (.findTag (s.arg.extractLsb' 0 8) (Sel.ofBit (s.arg.getLsbD 8)))
  else none

/-- The command word whose fields are latched in OP and ARG (10_state.md R47). -/
def latchedWord (s : State) : Word := s.arg ++ s.op

/-- `CAP(sel)` (00_scope.md R10). -/
def cap (s : State) : Sel → Nat
  | .tx => s.txbufCap.toNat
  | .rx => s.rxbufCap.toNat

/-- The host address of byte 0 of a buffer, `W` of 20_memory.md R64. -/
def bufferBase : Sel → Nat
  | .tx => 0x10000
  | .rx => 0x20000

/-- "The window is legal when `WIN_BASE + WIN_LEN ≤ CAP(sel)`, computed without wrap" (10_state.md R42). -/
def windowLegal (s : State) (sel : Sel) : Bool := s.winBase.toNat + s.winLen.toNat ≤ cap s sel

/-- The completion edge of DCS_GEN and FIND_TAG over an `n`-byte window is `e0 + latency`: a free draw in `1 .. n+1`,
and the spec's default `n+1` when no draw is given (00_scope.md R7, 44_control.md R207; log entry 2). -/
def latency (n : Nat) : List Nat → Nat
  | [] => n + 1
  | d :: _ => 1 + d % (n + 1)

/-- The address of the word a transaction at `a` accesses, `addr & 0x3FFFC` (20_memory.md R61). -/
def alignedAddr (a : Addr) : Addr := a &&& 0x3FFFC#18

/-- Byte `j` of a word, `v[8j+7:8j]` (20_memory.md R64). -/
def byteLane (v : Word) (j : Nat) : Byte := v.extractLsb' (8 * j) 8

end Sys2Proof.Machine
end

