-- ==== Sys2Proof/Machine/Flags.lean ====
section
/-! DEFINITION. The numbers behind the named values of STATUS, the words that STATUS and the other registers read as
(10_state.md), and the outputs that are functions of the state before the edge. -/

namespace Sys2Proof.Machine

/-- STATUS.SYNC values (41_frame_reader.md R120). -/
def Sync.bits : Sync → BitVec 2
  | .waitPre => 0#2
  | .waitSb1 => 1#2
  | .waitSb2 => 2#2
  | .matched => 3#2

/-- STATUS.PHASE values (10_state.md R31). -/
def Phase.bits : Phase → BitVec 4
  | .idle => 0#4
  | .sync => 1#4
  | .lenH => 2#4
  | .lenL => 3#4
  | .lcs => 4#4
  | .ackPost => 5#4
  | .pay => 6#4
  | .dcs => 7#4
  | .post => 8#4

/-- Completion code values (60_exceptions.md R220). -/
def Code.bits : Code → BitVec 4
  | .ok => 0#4
  | .timeout => 1#4
  | .shortRead => 2#4
  | .lcsErr => 3#4
  | .dcsErr => 4#4
  | .overflow => 5#4
  | .notFound => 6#4
  | .range => 7#4
  | .illegal => 8#4
  | .aborted => 9#4

/-- STATUS as the host reads it, from bit 31 down (10_state.md R24). -/
def statusWord (s : State) : Word :=
  0#8 ++ s.op ++ s.phase.bits ++ s.err.bits ++ 0#2 ++ s.sync.bits ++
    BitVec.ofBool s.bwe ++ BitVec.ofBool s.isAck ++ BitVec.ofBool s.done ++ BitVec.ofBool s.busy

/-- CFG as the host reads it (10_state.md R22). -/
def cfgWord (s : State) : Word := 0#16 ++ s.marker ++ 0#7 ++ BitVec.ofBool s.ie

/-- RX_CHK as the host reads it (10_state.md R39). -/
def rxChkWord (s : State) : Word := s.dcsCalc ++ s.postRx ++ s.dcsRx ++ s.lcsRx

/-- TLV_RES as the host reads it (10_state.md R44). -/
def tlvResWord (s : State) : Word := 0#7 ++ BitVec.ofBool s.tlvFound ++ s.tlvLen ++ s.tlvOff

/-- CAPS as the host reads it (10_state.md R45). -/
def capsWord (s : State) : Word := s.rxbufCap ++ s.txbufCap

/-- The `irq` output (60_exceptions.md R232). -/
def irq (s : State) : Bool := s.ie && s.done

/-- The `rx_ready` output (20_memory.md R66). -/
def rxReady (s : State) : Bool :=
  s.busy && s.op == 0x05#8 && s.pendErr == .ok && s.elapsed.ult s.deadline

/-- The `tx_valid` output (20_memory.md R67). -/
def txValid (s : State) : Bool := s.busy && s.op == 0x06#8 && s.pendErr == .ok

end Sys2Proof.Machine
end

