-- ==== Sys2Proof/Machine/Ops.lean ====
section
/-! DEFINITION. The named operations: buffer memory, the checksum functions, the automaton's transition function, the
frame layout, acceptance, completion (the FSCV's one form of exception, 60_exceptions.md R225) and reset. -/

namespace Sys2Proof.Machine

/-- The byte listed at an address, if one is. -/
def Memory.read : Memory → Nat → Option Byte
  | [], _ => none
  | (b, x) :: m, a => if a = b then some x else Memory.read m a

/-- List `v` at address `a`, keeping the addresses strictly rising. An unlisted byte reads as a free value, which no
written byte is known to equal, so a write never removes an entry (log entry 14). -/
def Memory.write : Memory → Nat → Byte → Memory
  | [], a, v => [(a, v)]
  | (b, x) :: m, a, v =>
    if a < b then (a, v) :: (b, x) :: m
    else if a = b then (a, v) :: m
    else (b, x) :: Memory.write m a v

/-- The canonical form: addresses strictly rising. -/
abbrev Memory.wf (m : Memory) : Prop := m.Pairwise fun p q => p.1 < q.1

/-- `BufRead(sel, i)`: byte `i` of a buffer; a byte at or past the capacity does not exist and reads 0
(20_memory.md R65); a byte that nothing has written since the last reset edge is a free value
(70_reset_and_hazards.md R251). -/
def bufRead (s : State) (sel : Sel) (i : Nat) : Byte :=
  if i < cap s sel then
    (s.mem.read (bufferBase sel + i)).getD (Config.bufferByte s.epoch (bufferBase sel + i))
  else 0#8

/-- `BufWrite(sel, i, v)`: a write to a byte that does not exist is ignored (20_memory.md R65). -/
def bufWrite (s : State) (sel : Sel) (i : Nat) (v : Byte) : State :=
  if i < cap s sel then { s with mem := s.mem.write (bufferBase sel + i) v } else s

/-- The bytes `base .. base + n - 1` of a buffer. -/
def bufBytes (s : State) (sel : Sel) (base n : Nat) : List Byte :=
  (List.range n).map fun k => bufRead s sel (base + k)

/-- The length checksum (40_checksum.md R100). -/
def lcs (len16 : BitVec 16) : Byte :=
  BitVec.ofNat 8 (0x100 - ((len16.extractLsb' 8 8).toNat + (len16.extractLsb' 0 8).toNat) % 256)

/-- The data checksum (40_checksum.md R101). -/
def dcs (bs : List Byte) : Byte :=
  BitVec.ofNat 8 (0x100 - (bs.map BitVec.toNat).sum % 256)

/-- The automaton's transition function `δ` (41_frame_reader.md R121). -/
def delta (q : Sync) (b : Byte) : Sync :=
  match q with
  | .waitPre => if b = 0x00#8 then .waitSb1 else .waitPre
  | .waitSb1 => if b = 0x00#8 then .waitSb2 else .waitPre
  | .waitSb2 => if b = 0x00#8 then .waitSb2 else if b = 0xFF#8 then .matched else .waitPre
  | .matched => if b = 0x00#8 then .waitSb1 else .waitPre

/-- Adds 1, saturating at 0xFFFFFFFF (41_frame_reader.md R130). -/
def satSucc (n : BitVec 32) : BitVec 32 := if n = 0xFFFFFFFF#32 then n else n + 1#32

/-- `FrameByte(k)` for the payload `TXBUF[0 .. TX_LEN - 1]` (42_frame_writer.md R161). No frame has a byte past the
postamble; the last line is never reached by a run (log entry 10). -/
def frameByte (s : State) (k : Nat) : Byte :=
  if k = 0 then 0x00#8
  else if k = 1 then 0x00#8
  else if k = 2 then 0xFF#8
  else if k = 3 then s.txLen.extractLsb' 8 8
  else if k = 4 then s.txLen.extractLsb' 0 8
  else if k = 5 then lcs s.txLen
  else if k ≤ 5 + s.txLen.toNat then bufRead s .tx (k - 6)
  else if k = 6 + s.txLen.toNat then dcs (bufBytes s .tx 0 s.txLen.toNat)
  else 0x00#8

/-- The `tx_data` output (20_memory.md R67). -/
def txData (s : State) : Byte := if txValid s then frameByte s s.txCnt.toNat else 0x00#8

/-- `finish(E)`: the executing command completes with code `E` (44_control.md R203). -/
def finish (e : Code) (s : State) : State := { s with busy := false, done := true, err := e }

/-- The range tests of `StaticCheck` for a defined word (44_control.md R202). -/
def rangeCheck (s : State) : Instr → Code
  | .dcsGen sel => if windowLegal s sel then .ok else .range
  | .findTag _ sel => if windowLegal s sel then .ok else .range
  | .writeFrame => if s.txLen.toNat ≤ s.txbufCap.toNat then .ok else .range
  | .nop => .ok
  | .lcsGen _ => .ok
  | .preStep _ => .ok
  | .preClr => .ok
  | .readFrame => .ok
  | .abort => .ok

/-- `StaticCheck(w)`: ILLEGAL for a word that is not defined, else the range tests (44_control.md R202). -/
def staticCheck (s : State) (w : Word) : Code :=
  match decode w with
  | .error _ => .illegal
  | .ok i => rangeCheck s i

/-- READ_FRAME's own acceptance writes (41_frame_reader.md R126). -/
def acceptReadFrame (s : State) : State :=
  { s with
    phase := .sync, sync := .waitPre, elapsed := 0#32, rxLen := 0#16, rxCnt := 0#16, lcsRx := 0#8, dcsRx := 0#8,
    postRx := 0#8, dcsCalc := 0#8, rxTotal := 0#32 }

/-- Takes the latency draw of a DCS_GEN or FIND_TAG (44_control.md R207, log entry 2). -/
def drawLatency (s : State) : State :=
  { s with latLeft := latency s.winLen.toNat s.latDraws, latDraws := s.latDraws.tail }

/-- "The command's own acceptance writes" (44_control.md R200), with the latency draw of 44_control.md R207. -/
def acceptanceWrites (s : State) (w : Word) : State :=
  if opcodeOf w = 0x05#8 then acceptReadFrame s
  else if opcodeOf w = 0x06#8 then { s with txCnt := 0#17 }
  else if opcodeOf w = 0x02#8 ∨ opcodeOf w = 0x07#8 then drawLatency s
  else s

/-- The writes every acceptance makes (44_control.md R200). -/
def latch (s : State) (w : Word) : State :=
  { s with
    busy := true, done := false, err := .ok, isAck := false, op := opcodeOf w, arg := argOf w,
    pendErr := staticCheck s w }

/-- The acceptance edge of the command word `w` (44_control.md R200). -/
def accept (w : Word) (s : State) : State :=
  if staticCheck s w = .ok then acceptanceWrites (latch s w) w else latch s w

/-- "if PEND_ERR != 0: finish(PEND_ERR)", the first line of every command's execution (44_control.md R202). -/
def unlessPending (body : State → State) (s : State) : State :=
  if s.pendErr = .ok then body s else finish s.pendErr s

/-- What a command does at one edge: its execution edge `body` while BUSY = 1, its acceptance edge while BUSY = 0
(44_control.md R200, R208; log entry 5). -/
def commandEdge (i : Instr) (body : State → State) (s : State) : State :=
  if s.busy then unlessPending body s else accept (encode i) s

/-- At an execution edge of DCS_GEN or FIND_TAG: `body` at the completion edge, one edge less to go before it
(44_control.md R207). -/
def atLatency (body : State → State) (s : State) : State :=
  if s.latLeft ≤ 1 then body s else { s with latLeft := s.latLeft - 1 }

/-- A reset edge (70_reset_and_hazards.md R250, R251): every register at its reset value, the buffers unspecified anew,
CAPS and the environment's data kept. A byte whose TX handshake completes at the reset edge has been handed over (R258),
and a read in the cycle before it still returned a word, which the caller passes. -/
def resetEdge (s : State) (read : List Word) : State :=
  { State.reset with
    txbufCap := s.txbufCap, rxbufCap := s.rxbufCap, epoch := s.epoch + 1, latDraws := s.latDraws,
    inputs := s.inputs.tail,
    txSent := if txValid s && s.input.txReady then s.txSent ++ [txData s] else s.txSent,
    hostReads := s.hostReads ++ read }

end Sys2Proof.Machine
end

