-- ==== Sys2Proof/Machine/Checksum.lean ====
section
/-! DEFINITION. The checksum commands LCS_GEN and DCS_GEN (40_checksum.md). -/

namespace Sys2Proof.Machine

/-- LCS_GEN at its execution edge: RES <- lcs(len16) (R104). -/
def lcsGenBody (len16 : BitVec 16) (s : State) : State := finish .ok { s with res := lcs len16 }

/-- LCS_GEN (R104). -/
def execLcsGen (len16 : BitVec 16) (s : State) : Host.Outcome State Fault Refusal :=
  .next (commandEdge (.lcsGen len16) (lcsGenBody len16) s)

/-- DCS_GEN at its completion edge: RES <- dcs of the window (R105). -/
def dcsGenBody (sel : Sel) (s : State) : State :=
  finish .ok { s with res := dcs (bufBytes s sel s.winBase.toNat s.winLen.toNat) }

/-- DCS_GEN (R105). -/
def execDcsGen (sel : Sel) (s : State) : Host.Outcome State Fault Refusal :=
  .next (commandEdge (.dcsGen sel) (atLatency (dcsGenBody sel)) s)

end Sys2Proof.Machine
end

