-- ==== Sys2Proof/Machine/FrameReader.lean ====
section
/-! DEFINITION. The preamble automaton's commands PRE_STEP and PRE_CLR, and READ_FRAME (41_frame_reader.md). -/

namespace Sys2Proof.Machine

/-- PRE_STEP at its execution edge: SYNC <- δ(SYNC, byte) (R123). -/
def preStepBody (byte : Byte) (s : State) : State := finish .ok { s with sync := delta s.sync byte }

/-- PRE_STEP (R123). -/
def execPreStep (byte : Byte) (s : State) : Host.Outcome State Fault Refusal :=
  .next (commandEdge (.preStep byte) (preStepBody byte) s)

/-- PRE_CLR at its execution edge: SYNC <- WAIT_PRE (R124). -/
def preClrBody (s : State) : State := finish .ok { s with sync := .waitPre }

/-- PRE_CLR (R124). -/
def execPreClr (s : State) : Host.Outcome State Fault Refusal :=
  .next (commandEdge .preClr preClrBody s)

/-- `TimeoutCode(phase)` (R129). IDLE is no phase of an executing READ_FRAME (log entry 9). -/
def timeoutCode : Phase → Code
  | .lenH => .shortRead
  | .lenL => .shortRead
  | .lcs => .shortRead
  | .idle => .timeout
  | .sync => .timeout
  | .ackPost => .timeout
  | .pay => .timeout
  | .dcs => .timeout
  | .post => .timeout

/-- PHASE = SYNC (R132). -/
def onSync (b : Byte) (s : State) : State :=
  if delta s.sync b = .matched then { s with sync := .matched, phase := .lenH }
  else { s with sync := delta s.sync b }

/-- PHASE = LENH (R133). -/
def onLenH (b : Byte) (s : State) : State := { s with rxLen := b ++ 0x00#8, phase := .lenL }

/-- PHASE = LENL (R134). -/
def onLenL (b : Byte) (s : State) : State := { s with rxLen := s.rxLen.extractLsb' 8 8 ++ b, phase := .lcs }

/-- PHASE = LCS: the ACK test, then the LCS test, then the OVERFLOW test (R135, 60_exceptions.md R233). -/
def onLcs (b : Byte) (s : State) : State :=
  if s.rxLen = 0#16 ∧ b = 0xFF#8 then { s with lcsRx := b, phase := .ackPost }
  else if b ≠ lcs s.rxLen then finish .lcsErr { s with lcsRx := b }
  else if s.rxbufCap.toNat < s.rxLen.toNat then finish .overflow { s with lcsRx := b }
  else if s.rxLen = 0#16 then { s with lcsRx := b, phase := .dcs }
  else { s with lcsRx := b, phase := .pay }

/-- PHASE = ACKPOST: the postamble's value is not checked (R136). -/
def onAckPost (b : Byte) (s : State) : State := finish .ok { s with postRx := b, isAck := true }

/-- PHASE = PAY (R137). -/
def onPay (b : Byte) (s : State) : State :=
  { bufWrite s .rx s.rxCnt.toNat b with
    dcsCalc := s.dcsCalc - b
    rxCnt := s.rxCnt + 1#16
    phase := if s.rxCnt.toNat + 1 = s.rxLen.toNat then .dcs else s.phase }

/-- PHASE = DCS (R138). -/
def onDcs (b : Byte) (s : State) : State := { s with dcsRx := b, phase := .post }

/-- PHASE = POST: the DCS check, made after the postamble byte, whose value is not checked (R139). -/
def onPost (b : Byte) (s : State) : State :=
  if s.dcsRx = s.dcsCalc then finish .ok { s with postRx := b } else finish .dcsErr { s with postRx := b }

/-- "apply the rule of STATUS.PHASE to b" (R127). IDLE has no rule (log entry 9). -/
def applyPhase (b : Byte) (s : State) : State :=
  match s.phase with
  | .idle => s
  | .sync => onSync b s
  | .lenH => onLenH b s
  | .lenL => onLenL b s
  | .lcs => onLcs b s
  | .ackPost => onAckPost b s
  | .pay => onPay b s
  | .dcs => onDcs b s
  | .post => onPost b s

/-- A byte is consumed and counted (R127, R130). -/
def takeByte (b : Byte) (s : State) : State := applyPhase b { s with rxTotal := satSucc s.rxTotal }

/-- The tick of an execution edge at which the command does not complete (R127, R131). -/
def countTick (tick : Bool) (s : State) : State :=
  if tick && s.busy then { s with elapsed := s.elapsed + 1#32 } else s

/-- READ_FRAME at an execution edge, PEND_ERR = 0: the deadline, then the byte, then the tick (R127, R128). -/
def readFrameBody (s : State) : State :=
  if s.elapsed.ult s.deadline then
    countTick s.input.tick (if s.input.rxValid then takeByte s.input.rxData s else s)
  else finish (timeoutCode s.phase) s

/-- READ_FRAME (R125). -/
def execReadFrame (s : State) : Host.Outcome State Fault Refusal :=
  .next (commandEdge .readFrame readFrameBody s)

end Sys2Proof.Machine
end

