-- ==== Sys2Proof/Machine/FrameWriter.lean ====
section
/-! DEFINITION. WRITE_FRAME (42_frame_writer.md). -/

namespace Sys2Proof.Machine

/-- One handover: `tx_put(FrameByte(TX_CNT))`, TX_CNT counts it (R160, R163). -/
def handOver (s : State) : State :=
  { s with txSent := s.txSent ++ [frameByte s s.txCnt.toNat], txCnt := s.txCnt + 1#17 }

/-- WRITE_FRAME at an execution edge, PEND_ERR = 0: the frame ends with the handover of byte `L + 7` (R160). -/
def writeFrameBody (s : State) : State :=
  if s.input.txReady then
    if s.txCnt.toNat = s.txLen.toNat + 7 then finish .ok (handOver s) else handOver s
  else s

/-- WRITE_FRAME (R160). -/
def execWriteFrame (s : State) : Host.Outcome State Fault Refusal :=
  .next (commandEdge .writeFrame writeFrameBody s)

end Sys2Proof.Machine
end

