-- ==== Sys2Proof/Machine/Tlv.lean ====
section
/-! DEFINITION. FIND_TAG (43_tlv.md). -/

namespace Sys2Proof.Machine

/-- The loop of `Scan` from position `i` (R181), with fuel: every entry that is skipped takes at least two bytes, so the
window's length is fuel enough. `rd` reads a byte of the buffer, `stop` is the window's end. The answer is the first
matching entry's value offset and length. -/
def scanFrom (rd : Nat → Byte) (stop : Nat) (target marker : Byte) : Nat → Nat → Option (Nat × Byte)
  | 0, _ => none
  | fuel + 1, i =>
    if i < stop then
      if rd i = marker then
        if i + 2 < stop then scanFrom rd stop target marker fuel (i + 3 + (rd (i + 2)).toNat)
        else none
      else if i + 1 < stop then
        if rd i = target then
          if i + 2 + (rd (i + 1)).toNat ≤ stop then some (i + 2, rd (i + 1)) else none
        else scanFrom rd stop target marker fuel (i + 2 + (rd (i + 1)).toNat)
      else none
    else none

/-- `Scan(sel, base, n, target, marker)` (R181). -/
def scan (s : State) (sel : Sel) (base n : Nat) (target marker : Byte) : Option (Nat × Byte) :=
  scanFrom (bufRead s sel) (base + n) target marker n base

/-- FIND_TAG at its completion edge (R180, R184). -/
def findTagBody (tag : Byte) (sel : Sel) (s : State) : State :=
  match scan s sel s.winBase.toNat s.winLen.toNat tag s.marker with
  | some (off, len) => finish .ok { s with tlvOff := BitVec.ofNat 16 off, tlvLen := len, tlvFound := true }
  | none => finish .notFound { s with tlvOff := 0#16, tlvLen := 0#8, tlvFound := false }

/-- FIND_TAG (R180). -/
def execFindTag (tag : Byte) (sel : Sel) (s : State) : Host.Outcome State Fault Refusal :=
  .next (commandEdge (.findTag tag sel) (atLatency (findTagBody tag sel)) s)

end Sys2Proof.Machine
end

