-- ==== Sys2Proof/Machine/Control.lean ====
section
/-! DEFINITION. NOP, the engine's step of the executing command, ABORT, and illegal words (44_control.md). -/

namespace Sys2Proof.Machine

/-- NOP at its execution edge, PEND_ERR = 0 (R204). -/
def nopBody (s : State) : State := finish .ok s

/-- NOP (R204). -/
def execNop (s : State) : Host.Outcome State Fault Refusal := .next (commandEdge .nop nopBody s)

/-- The execution edge of an illegal word, whose opcode names no command: `finish(ILLEGAL)` (R206, log entry 11). -/
def illegalEdge (s : State) : State := finish .illegal s

/-- The executing command's own step at an edge with BUSY = 1: "Only the command named by OP executes" (R208). -/
def engineStep (s : State) : State :=
  match executing s with
  | some .nop => unlessPending nopBody s
  | some (.lcsGen len16) => unlessPending (lcsGenBody len16) s
  | some (.dcsGen sel) => unlessPending (atLatency (dcsGenBody sel)) s
  | some (.preStep byte) => unlessPending (preStepBody byte) s
  | some .preClr => unlessPending preClrBody s
  | some .readFrame => unlessPending readFrameBody s
  | some .writeFrame => unlessPending writeFrameBody s
  | some (.findTag tag sel) => unlessPending (atLatency (findTagBody tag sel)) s
  | some .abort => illegalEdge s
  | none => illegalEdge s

/-- An abort edge: the executing command's own step in full, then `finish(ABORTED)` unless the command completed (R205).
An abort edge is a completion edge (R203, R207), and a tick at a completion edge is ignored (41_frame_reader.md R131), so
ELAPSED keeps its value. -/
def abortEdge (s : State) : State :=
  if (engineStep s).busy then finish .aborted { engineStep s with elapsed := s.elapsed } else engineStep s

/-- ABORT: no effect while BUSY = 0 (R200, R205). -/
def execAbort (s : State) : Host.Outcome State Fault Refusal := .next (if s.busy then abortEdge s else s)

end Sys2Proof.Machine
end

