-- ==== Sys2Proof/Machine/Dispatch.lean ====
section
/-! DEFINITION. One arm per command: the meaning of each instruction at one edge. -/

namespace Sys2Proof.Machine

def exec (i : Instr) (s : State) : Host.Outcome State Fault Refusal :=
  match i with
  | .nop => Sys2Proof.Machine.execNop s
  | .lcsGen len16 => Sys2Proof.Machine.execLcsGen len16 s
  | .dcsGen sel => Sys2Proof.Machine.execDcsGen sel s
  | .preStep byte => Sys2Proof.Machine.execPreStep byte s
  | .preClr => Sys2Proof.Machine.execPreClr s
  | .readFrame => Sys2Proof.Machine.execReadFrame s
  | .writeFrame => Sys2Proof.Machine.execWriteFrame s
  | .findTag tag sel => Sys2Proof.Machine.execFindTag tag sel s
  | .abort => Sys2Proof.Machine.execAbort s

end Sys2Proof.Machine
end

