-- ==== Sys2Proof/Machine/Bus.lean ====
section
/-! DEFINITION. The host bus: the address map, what a MemRead returns and what a MemWrite does (20_memory.md, 10_state.md
R51), with the rule for writes while busy. -/

namespace Sys2Proof.Machine

/-- The registers of the map (10_state.md R51). -/
inductive Reg where
  | id
  | cfg
  | cmd
  | status
  | deadline
  | elapsed
  | txLen
  | txCnt
  | rxLen
  | rxCnt
  | rxChk
  | rxTotal
  | winBase
  | winLen
  | res
  | tlvRes
  | caps
deriving DecidableEq, Repr

/-- The registers in the order of their offsets 0x000, 0x004, …, 0x040 (10_state.md R51). -/
def registerMap : List Reg :=
  [.id, .cfg, .cmd, .status, .deadline, .elapsed, .txLen, .txCnt, .rxLen, .rxCnt, .rxChk, .rxTotal, .winBase, .winLen,
    .res, .tlvRes, .caps]

/-- What stands at a word address: a register, the word of a buffer window whose first byte has index `i`, or nothing. -/
inductive Loc where
  | reg (r : Reg)
  | buf (sel : Sel) (i : Nat)
  | unmapped
deriving DecidableEq, Repr

/-- The register region and every other word of it (20_memory.md R62). -/
def locateReg (offset : Nat) : Loc :=
  match registerMap[offset / 4]? with
  | some r => .reg r
  | none => .unmapped

/-- The host address map (20_memory.md R61, R62). -/
def locate (a : Addr) : Loc :=
  let w := (alignedAddr a).toNat
  if w < 0x10000 then locateReg w
  else if w < 0x20000 then .buf .tx (w - 0x10000)
  else if w < 0x30000 then .buf .rx (w - 0x20000)
  else .unmapped

/-- What a register reads as (10_state.md R51, R21 to R45). -/
def readReg (s : State) : Reg → Word
  | .id => Config.idWord
  | .cfg => cfgWord s
  | .cmd => 0#32
  | .status => statusWord s
  | .deadline => s.deadline
  | .elapsed => s.elapsed
  | .txLen => s.txLen.zeroExtend 32
  | .txCnt => s.txCnt.zeroExtend 32
  | .rxLen => s.rxLen.zeroExtend 32
  | .rxCnt => s.rxCnt.zeroExtend 32
  | .rxChk => rxChkWord s
  | .rxTotal => s.rxTotal
  | .winBase => s.winBase.zeroExtend 32
  | .winLen => s.winLen.zeroExtend 32
  | .res => s.res.zeroExtend 32
  | .tlvRes => tlvResWord s
  | .caps => capsWord s

/-- A word of a buffer window, little-endian (20_memory.md R64). -/
def readBufWord (s : State) (sel : Sel) (i : Nat) : Word :=
  bufRead s sel (i + 3) ++ bufRead s sel (i + 2) ++ bufRead s sel (i + 1) ++ bufRead s sel i

/-- What a MemRead returns, from the state before the edge (20_memory.md R60, R63). -/
def hostRead (s : State) (a : Addr) : Word :=
  match locate a with
  | .reg r => readReg s r
  | .buf sel i => readBufWord s sel i
  | .unmapped => 0#32

/-- A word written to a buffer window, little-endian (20_memory.md R64). -/
def writeBufWord (s : State) (sel : Sel) (i : Nat) (v : Word) : State :=
  bufWrite (bufWrite (bufWrite (bufWrite s sel i (byteLane v 0)) sel (i + 1) (byteLane v 1))
    sel (i + 2) (byteLane v 2)) sel (i + 3) (byteLane v 3)

/-- A write dropped because BUSY was 1 before the edge (10_state.md R28). -/
def dropWrite (s : State) : State := { s with bwe := true }

/-- The W1C bits of STATUS (10_state.md R24): `completed` says that the engine set DONE at this very edge, and then DONE
stays 1 (60_exceptions.md R234). -/
def writeStatus (completed : Bool) (v : Word) (s : State) : State :=
  { s with
    done := s.done && (completed || !v.getLsbD 1)
    bwe := s.bwe && !v.getLsbD 3 }

/-- A write to a register. `busy` is BUSY before the edge (20_memory.md R77), `completed` says that the engine set DONE at
this edge; `s` is the state after the engine's step (60_exceptions.md R234). A CMD write while idle, and an ABORT, are
commands: they are `exec`'s. -/
def writeReg (busy completed : Bool) (r : Reg) (v : Word) (s : State) : State :=
  match r with
  | .cfg => if busy then { s with ie := v.getLsbD 0 } else { s with ie := v.getLsbD 0, marker := v.extractLsb' 8 8 }
  | .cmd => if busy && v != abortWord then dropWrite s else s
  | .status => writeStatus completed v s
  | .deadline => if busy then dropWrite s else { s with deadline := v }
  | .txLen => if busy then dropWrite s else { s with txLen := v.extractLsb' 0 16 }
  | .winBase => if busy then dropWrite s else { s with winBase := v.extractLsb' 0 16 }
  | .winLen => if busy then dropWrite s else { s with winLen := v.extractLsb' 0 16 }
  | .id => s
  | .elapsed => s
  | .txCnt => s
  | .rxLen => s
  | .rxCnt => s
  | .rxChk => s
  | .rxTotal => s
  | .res => s
  | .tlvRes => s
  | .caps => s

/-- A MemWrite at its edge (20_memory.md R60, R63, R77). -/
def hostWrite (busy completed : Bool) (a : Addr) (v : Word) (s : State) : State :=
  match locate a with
  | .reg r => writeReg busy completed r v s
  | .buf sel i => if busy then dropWrite s else writeBufWord s sel i v
  | .unmapped => s

/-- The word that a transaction writes to CMD, if it does. -/
def cmdWord : HostTxn → Option Word
  | .none => none
  | .read _ => none
  | .write a v => if locate a = .reg .cmd then some v else none

/-- The host's transaction applied to the state `post` after the engine's step, judged on `pre`, the state before the
edge (60_exceptions.md R234). -/
def hostEffect (pre post : State) : State :=
  match pre.input.host with
  | .none => post
  | .read _ => post
  | .write a v => hostWrite pre.busy (pre.busy && !post.busy) a v post

/-- The word the host reads in the cycle that ends at the edge, if it reads. -/
def readWords (s : State) : List Word :=
  match s.input.host with
  | .none => []
  | .read a => [hostRead s a]
  | .write _ _ => []

/-- The end of an edge that is no reset edge: the host's transaction, and the environment's data move on one edge. -/
def endEdge (pre post : State) : State :=
  { hostEffect pre post with inputs := pre.inputs.tail, hostReads := pre.hostReads ++ readWords pre }

end Sys2Proof.Machine
end

