-- ==== Sys2Proof/Machine/Fetch.lean ====
section
/-! DEFINITION. Which command an edge runs (00_scope.md R11, 44_control.md R200, R201, R205, R208). -/

namespace Sys2Proof.Machine

/-- The command that the edge runs. While busy it is ABORT when the host writes the ABORT word (44_control.md R201),
else the executing command (R208); while idle it is the command whose word the host writes to CMD (R200). -/
def fetch (s : State) : Option Instr :=
  if s.busy then
    if cmdWord s.input.host = some abortWord then some .abort else executing s
  else
    match cmdWord s.input.host with
    | some w => (decode w).toOption
    | none => none

/-- An edge that runs no command: an illegal word's execution edge, an illegal word's acceptance edge (R206), or an idle
edge, at which the engine does nothing (R208). -/
def withoutCommand (s : State) : State :=
  if s.busy then illegalEdge s
  else
    match cmdWord s.input.host with
    | some w => accept w s
    | none => s

/-- The script with `host` presented at the next edge, and no reset. -/
def presentNext (host : HostTxn) (s : State) : State :=
  { s with inputs := { s.input with rst := false, host := host } :: s.inputs.tail }

/-- `s` with the command word `w` placed where the next edge finds its command (log entry 6). ABORT is never accepted: its
place is the host's write to CMD. Every other word's place is OP, ARG and PEND_ERR with BUSY = 1, as its acceptance edge
leaves them, with no reset and no host transaction at the next edge. -/
def placeCommand (s : State) (w : Word) : State :=
  if w = abortWord then presentNext (.write 0x00008#18 w) s else accept w (presentNext .none s)

end Sys2Proof.Machine
end

