-- ==== Sys2Proof/Machine/Step.lean ====
section
/-! DEFINITION. One step of the FSCV: one clock edge (00_scope.md R11, R13; 60_exceptions.md R234). -/

namespace Sys2Proof.Machine

/-- One clock edge: reset overrides everything, else the command's own step and then the host's transaction (R234). -/
def step (s : State) : Host.Outcome State Fault Refusal :=
  if s.input.rst then .next (resetEdge s (readWords s))
  else
    match fetch s with
    | some i =>
      match exec i s with
      | .next t => .next (endEdge s t)
      | .fault f => .fault f
      | .refused r => .refused r
    | none => .next (endEdge s (withoutCommand s))

/-- `s` with the instruction whose bits are `w` placed so that the very next step runs it (log entry 6). -/
def State.withFetchWord (s : State) (nbits w : Nat) : State :=
  placeCommand s (BitVec.ofNat 32 (w % 2 ^ nbits))

end Sys2Proof.Machine
end

