-- ==== Sys2Proof/Safety.lean ====
section
/-! DEFINITION. What counts as a safe state and an undisturbed run, in the terms the statements use: the wire formats, the
entries of a TLV window, the outside agents' behaviour over a run, and the invariant of the machine. -/

namespace Sys2Proof.Machine

/-! Wire formats. -/

/-- The data frame of a payload, in transfer order (30_encoding.md R93). -/
def dataFrame (p : List Byte) : List Byte :=
  [0x00#8, 0x00#8, 0xFF#8, (BitVec.ofNat 16 p.length).extractLsb' 8 8, (BitVec.ofNat 16 p.length).extractLsb' 0 8,
    lcs (BitVec.ofNat 16 p.length)] ++ p ++ [dcs p, 0x00#8]

/-- The ACK frame (30_encoding.md R94). -/
def ackFrame : List Byte := [0x00#8, 0x00#8, 0xFF#8, 0x00#8, 0x00#8, 0xFF#8, 0x00#8]

/-- The preamble pattern (00_scope.md R12). -/
def preamblePattern : List Byte := [0x00#8, 0x00#8, 0xFF#8]

/-- The automaton after the bytes `bs`, from `q` (41_frame_reader.md R122). -/
def deltaRun (q : Sync) (bs : List Byte) : Sync := bs.foldl delta q

/-! TLV windows. -/

/-- Position `i` begins an entry of the window that the scan looks at: the window's first byte, or the position after an
entry with a two-byte tag, or after an entry whose one-byte tag is not the target (43_tlv.md R181). -/
inductive EntryReached (rd : Nat → Byte) (stop : Nat) (target marker : Byte) (base : Nat) : Nat → Prop
  | first : EntryReached rd stop target marker base base
  | afterTwoByteTag (i : Nat) (h : EntryReached rd stop target marker base i) (tag : rd i = marker) (hdr : i + 2 < stop) :
      EntryReached rd stop target marker base (i + 3 + (rd (i + 2)).toNat)
  | afterOneByteTag (i : Nat) (h : EntryReached rd stop target marker base i) (tag : rd i ≠ marker)
      (other : rd i ≠ target) (hdr : i + 1 < stop) :
      EntryReached rd stop target marker base (i + 2 + (rd (i + 1)).toNat)

/-! Executing commands and their runs. -/

/-- A READ_FRAME that passed its static check is executing. -/
def readingFrame (s : State) : Prop := s.busy = true ∧ s.op = 0x05#8 ∧ s.pendErr = .ok

/-- A WRITE_FRAME that passed its static check is executing. -/
def writingFrame (s : State) : Prop := s.busy = true ∧ s.op = 0x06#8 ∧ s.pendErr = .ok

/-- Neither reset nor an ABORT in this cycle: nothing that could end an executing command from outside
(44_control.md R207). -/
def Input.undisturbing (i : Input) : Prop := i.rst = false ∧ cmdWord i.host ≠ some abortWord

/-- The script presents exactly the bytes `bs`, one at each edge, undisturbed. -/
def presents (ins : List Input) (bs : List Byte) : Prop :=
  List.Forall₂ (fun i b => i.undisturbing ∧ i.rxValid = true ∧ i.rxData = b) ins bs

/-- How many edges of the script carry a tick. -/
def tickCount (ins : List Input) : Nat := ins.countP (·.tick)

/-- `n` steps of the machine from `s` all answer, and lead to `t`. -/
def runsTo (n : Nat) (s t : State) : Prop := Host.Core.run Sys2Proof.core n s = .next t

/-- READ_FRAME consumes the byte `b` at the next edge: it is executing, its deadline has not passed, and the RX source
presents `b` (20_memory.md R66, 41_frame_reader.md R127, R128). -/
def byteArrives (s : State) (b : Byte) : Prop :=
  readingFrame s ∧ s.elapsed.toNat < s.deadline.toNat ∧ s.input.rxValid = true ∧ s.input.rxData = b

/-- ELAPSED after an execution edge of READ_FRAME at which the command does not complete (41_frame_reader.md R131). -/
def tickedElapsed (s : State) : BitVec 32 := if s.input.tick then s.elapsed + 1#32 else s.elapsed

/-- The host writes at the next edge and the write is dropped because BUSY = 1 (20_memory.md R77, 44_control.md R201). -/
def dropsWrite (s : State) : Prop :=
  s.busy = true ∧ ∃ a v, s.input.host = .write a v ∧
    ((∃ sel i, locate a = .buf sel i) ∨
      locate a ∈ [Loc.reg .deadline, Loc.reg .txLen, Loc.reg .winBase, Loc.reg .winLen] ∨
      locate a = .reg .cmd ∧ v ≠ abortWord)

/-- The host clears BWE at the next edge (10_state.md R24, R28). -/
def clearsBwe (s : State) : Prop := ∃ a v, s.input.host = .write a v ∧ locate a = .reg .status ∧ v.getLsbD 3 = true

/-- `s` with no host transaction at the next edge. -/
def withoutHost (s : State) : State := { s with inputs := { s.input with host := .none } :: s.inputs.tail }

/-! The invariant. -/

/-- What READ_FRAME's progress registers satisfy in each phase (41_frame_reader.md R132 to R139): the automaton is MATCHED
exactly once the pattern is found, the payload fits, and DCS_CALC is the checksum of the bytes stored. -/
def readerInv (s : State) : Prop :=
  match s.phase with
  | .idle => False
  | .sync => s.sync ≠ .matched ∧ s.rxCnt = 0#16 ∧ s.dcsCalc = 0#8
  | .lenH => s.sync = .matched ∧ s.rxCnt = 0#16 ∧ s.dcsCalc = 0#8
  | .lenL => s.sync = .matched ∧ s.rxCnt = 0#16 ∧ s.dcsCalc = 0#8
  | .lcs => s.sync = .matched ∧ s.rxCnt = 0#16 ∧ s.dcsCalc = 0#8
  | .ackPost => s.sync = .matched ∧ s.rxCnt = 0#16 ∧ s.rxLen = 0#16 ∧ s.lcsRx = 0xFF#8
  | .pay => s.sync = .matched ∧ s.rxCnt.toNat < s.rxLen.toNat ∧ s.rxLen.toNat ≤ s.rxbufCap.toNat ∧
      s.lcsRx = lcs s.rxLen ∧ s.dcsCalc = dcs (bufBytes s .rx 0 s.rxCnt.toNat)
  | .dcs => s.sync = .matched ∧ s.rxCnt = s.rxLen ∧ s.rxLen.toNat ≤ s.rxbufCap.toNat ∧
      s.lcsRx = lcs s.rxLen ∧ s.dcsCalc = dcs (bufBytes s .rx 0 s.rxCnt.toNat)
  | .post => s.sync = .matched ∧ s.rxCnt = s.rxLen ∧ s.rxLen.toNat ≤ s.rxbufCap.toNat ∧
      s.lcsRx = lcs s.rxLen ∧ s.dcsCalc = dcs (bufBytes s .rx 0 s.rxCnt.toNat)

/-- The invariant that every step keeps. -/
structure State.Inv (s : State) : Prop where
  /-- the parameters are in their legal range (00_scope.md R7) -/
  capsLegal : 0 < s.txbufCap.toNat ∧ 0 < s.rxbufCap.toNat
  /-- the memory keeps its canonical form -/
  memCanonical : s.mem.wf
  /-- the memory lists only buffer bytes that exist (20_memory.md R65) -/
  memExists : ∀ c ∈ s.mem, ∃ sel i, i < cap s sel ∧ c.1 = bufferBase sel + i
  /-- acceptance cleared DONE, ERR and IS_ACK, and only a completion sets them (10_state.md R26, R27, R30) -/
  busyClears : s.busy = true → s.done = false ∧ s.err = .ok ∧ s.isAck = false
  /-- PEND_ERR is a static check's result (44_control.md R202) -/
  pendErrKinds : s.pendErr = .ok ∨ s.pendErr = .range ∨ s.pendErr = .illegal
  /-- the latched word is undefined exactly when PEND_ERR says ILLEGAL -/
  pendErrIllegal : s.pendErr = .illegal ↔ ∃ e, decode (latchedWord s) = .error e
  /-- ABORT is never accepted (44_control.md R205) -/
  abortNeverLatched : latchedWord s ≠ abortWord
  /-- IS_ACK = 1 belongs to a READ_FRAME that completed with OK in ACKPOST (10_state.md R27) -/
  ackCompleted : s.isAck = true → s.busy = false ∧ s.op = 0x05#8 ∧ s.err = .ok ∧ s.phase = .ackPost
  /-- the deadline has not been passed by more than the edge that notices it (10_state.md R34) -/
  elapsedBounded : readingFrame s → s.elapsed.toNat ≤ s.deadline.toNat
  /-- READ_FRAME's progress -/
  reader : readingFrame s → readerInv s
  /-- a frame received with OK leaves RX_CNT = RX_LEN, and an ACK leaves both 0 (10_state.md R38) -/
  received : s.busy = false → s.op = 0x05#8 → s.pendErr = .ok → s.err = .ok →
    s.rxCnt = s.rxLen ∧ (s.isAck = true → s.rxLen = 0#16) ∧ (s.isAck = false → s.phase = .post ∧ s.dcsRx = s.dcsCalc)
  /-- WRITE_FRAME presents a byte of its frame (42_frame_writer.md R163) -/
  writer : writingFrame s → s.txLen.toNat ≤ s.txbufCap.toNat ∧ s.txCnt.toNat ≤ s.txLen.toNat + 7
  /-- a window command that passed its check has a legal window and completes within its latency (44_control.md R207) -/
  window : s.busy = true → s.pendErr = .ok → s.op = 0x02#8 ∨ s.op = 0x07#8 →
    windowLegal s (Sel.ofBit (s.arg.getLsbD 8)) = true ∧ 1 ≤ s.latLeft ∧ s.latLeft ≤ s.winLen.toNat + 1
  /-- TLV_RES is 0 or a slice of a buffer (43_tlv.md R184) -/
  tlvSlice : (s.tlvFound = true → ∃ sel, s.tlvOff.toNat + s.tlvLen.toNat ≤ cap s sel) ∧
    (s.tlvFound = false → s.tlvOff = 0#16 ∧ s.tlvLen = 0#8)

end Sys2Proof.Machine
end

