-- ==== Sys2Proof/Certificates/Slice0/Obligations.lean ====
section
/-! DEFINITION. The statements about the FSCV model, each formalising the rules of spec/ that its docstring names. -/

open Sys2Proof Sys2Proof.Machine

/-! Encoding. -/

/-- Decode and encode are inverse, with every operand at every value (30_encoding.md R80 to R90). -/
def Obligations.DecodeInvertsEncode : Prop :=
  ∀ (i : Instr) (w : Word), i.wellFormed = true → (decode w = .ok i ↔ w = encode i)

/-- The decoder accepts exactly the defined words of the opcode map (30_encoding.md R87, R88). -/
def Obligations.DecoderAcceptsExactlyDefinedWords : Prop :=
  ∀ w : Word, (∃ i, decode w = .ok i) ↔ definedWord w = true

/-- Words written out from the formats of 30_encoding.md R81 to R85 decode to the commands they stand for, and words with
a reserved bit or opcode are refused, being illegal (R88, R89). That the decoder names which of the two it is, and the two
names, are the model's choice (log entry 22). -/
def Obligations.WrittenOutWordsDecode : Prop :=
  decode 0x00000000#32 = .ok .nop ∧ decode 0x00123401#32 = .ok (.lcsGen 0x1234#16) ∧
  decode 0x00010002#32 = .ok (.dcsGen .rx) ∧ decode 0x0000FF03#32 = .ok (.preStep 0xFF#8) ∧
  decode 0x00000004#32 = .ok .preClr ∧ decode 0x00000005#32 = .ok .readFrame ∧
  decode 0x00000006#32 = .ok .writeFrame ∧ decode 0x00019707#32 = .ok (.findTag 0x97#8 .rx) ∧
  decode 0x0000000F#32 = .ok .abort ∧ decode 0x00000008#32 = .error (.reservedOpcode 0x08#8) ∧
  decode 0x0000010F#32 = .error (.reservedBits 0x0F#8)

/-! The step. -/

/-- One edge runs one command: the latched one while busy, ABORT when the host writes the ABORT word while busy, and the
one written to CMD while idle; around it stand the host's transaction and the script (44_control.md R200, R201, R208).
That one step is one edge is the model's choice (log entry 5). -/
def Obligations.StepRunsTheCommand : Prop :=
  ∀ (s t : State) (i : Instr), s.input.rst = false → i.wellFormed = true → exec i s = .next t →
    (s.busy = true ∧ cmdWord s.input.host ≠ some abortWord ∧ decode (latchedWord s) = .ok i ∧ i ≠ .abort ∨
      s.busy = true ∧ cmdWord s.input.host = some abortWord ∧ i = .abort ∨
      s.busy = false ∧ ∃ w, cmdWord s.input.host = some w ∧ decode w = .ok i) →
    step s = .next (endEdge s t)

/-- Every step and every command answers a next state: the bus signals no error and every failure is a completion code
(20_memory.md R60, 60_exceptions.md R224; log entry 7). -/
def Obligations.EveryStepAnswersNext : Prop :=
  (∀ s : State, ∃ t, step s = .next t) ∧ ∀ (i : Instr) (s : State), ∃ t, exec i s = .next t

/-- A reset edge leaves the reset values, makes every buffer byte the free value of a new epoch (the model's reading of
"unspecified", log entry 3) and drops the outputs (10_state.md R50, 70_reset_and_hazards.md R250, R251). The bytes the sink
has taken stay, and the byte of a TX handshake that completes at this edge joins them, as R258 says it has been handed to
the sink; TX_CNT, which is 0, does not count it. The field that keeps those bytes, and that a reset edge keeps it, are
the model's own (log entries 8 and 18). -/
def Obligations.ResetEdgeLeavesResetValues : Prop :=
  ∀ s : State, s.input.rst = true → ∃ t, step s = .next t ∧
    hostRead t 0x00000#18 = 0x46530001#32 ∧ hostRead t 0x00004#18 = 0x00005F00#32 ∧ hostRead t 0x0000C#18 = 0#32 ∧
    hostRead t 0x00010#18 = 0x000003E8#32 ∧
    (∀ a ∈ [0x00014#18, 0x00018#18, 0x0001C#18, 0x00020#18, 0x00024#18, 0x00028#18, 0x0002C#18, 0x00030#18, 0x00034#18,
      0x00038#18, 0x0003C#18], hostRead t a = 0#32) ∧
    hostRead t 0x00040#18 = s.rxbufCap ++ s.txbufCap ∧ t.op = 0#8 ∧ t.arg = 0#24 ∧ t.pendErr = .ok ∧
    (∀ sel k, k < cap s sel → bufRead t sel k = Config.bufferByte (s.epoch + 1) (bufferBase sel + k)) ∧
    rxReady t = false ∧ txValid t = false ∧ txData t = 0#8 ∧ irq t = false ∧
    t.txSent = if txValid s ∧ s.input.txReady = true then s.txSent ++ [txData s] else s.txSent

/-- The reset state meets the invariant. -/
def Obligations.ResetStateMeetsInvariant : Prop := State.reset.Inv

/-- Every step, from every state that meets the invariant and with every input, keeps it. -/
def Obligations.EveryStepKeepsInvariant : Prop :=
  ∀ s t : State, s.Inv → step s = .next t → t.Inv

/-- ID and CAPS are constant, across reset too (10_state.md R21, R45). -/
def Obligations.IdAndCapsNeverChange : Prop :=
  ∀ s t : State, step s = .next t →
    hostRead s 0x00000#18 = 0x46530001#32 ∧ hostRead t 0x00000#18 = 0x46530001#32 ∧
    hostRead s 0x00040#18 = s.rxbufCap ++ s.txbufCap ∧ hostRead t 0x00040#18 = hostRead s 0x00040#18

/-! The functions. -/

/-- The length checksum's formula, and it is the only byte that makes the header sum 0 (40_checksum.md R100, R102). -/
def Obligations.LcsFormulaAndUniqueness : Prop :=
  ∀ len : BitVec 16,
    (lcs len).toNat = (0x100 - ((len.extractLsb' 8 8).toNat + (len.extractLsb' 0 8).toNat) % 256) % 256 ∧
    ∀ b : Byte, ((len.extractLsb' 8 8).toNat + (len.extractLsb' 0 8).toNat + b.toNat) % 256 = 0 ↔ b = lcs len

/-- The data checksum's formula (40_checksum.md R101). -/
def Obligations.DcsFormula : Prop :=
  dcs [] = 0x00#8 ∧ ∀ bs : List Byte, (dcs bs).toNat = (0x100 - (bs.map BitVec.toNat).sum % 256) % 256

/-- The DCS invariant, its uniqueness, its independence of order, and the DCS of a concatenation (40_checksum.md R103). -/
def Obligations.DcsLaws : Prop :=
  (∀ (p : List Byte) (b : Byte), ((p.map BitVec.toNat).sum + b.toNat) % 256 = 0 ↔ b = dcs p) ∧
  (∀ p q : List Byte, p.Perm q → dcs p = dcs q) ∧
  ∀ p q : List Byte, (dcs (p ++ q)).toNat = ((dcs p).toNat + (dcs q).toNat) % 256

/-- The automaton's table (41_frame_reader.md R121). -/
def Obligations.AutomatonTable : Prop :=
  (delta .waitPre 0x00#8 = .waitSb1 ∧ delta .waitSb1 0x00#8 = .waitSb2 ∧ delta .waitSb2 0x00#8 = .waitSb2 ∧
    delta .matched 0x00#8 = .waitSb1) ∧
  (delta .waitPre 0xFF#8 = .waitPre ∧ delta .waitSb1 0xFF#8 = .waitPre ∧ delta .waitSb2 0xFF#8 = .matched ∧
    delta .matched 0xFF#8 = .waitPre) ∧
  ∀ (q : Sync) (b : Byte), b ≠ 0x00#8 → b ≠ 0xFF#8 → delta q b = .waitPre

/-- From WAIT_PRE, with MATCHED not reached before the last byte, the automaton's state says which part of the preamble
pattern the bytes end with; and it reaches MATCHED exactly when the pattern occurs (41_frame_reader.md R122). -/
def Obligations.AutomatonFindsThePattern : Prop :=
  ∀ bs : List Byte,
    ((∀ k, k < bs.length → deltaRun .waitPre (bs.take k) ≠ .matched) →
      (deltaRun .waitPre bs = .matched ↔ preamblePattern <:+ bs) ∧
      (deltaRun .waitPre bs = .waitSb2 ↔ [0x00#8, 0x00#8] <:+ bs) ∧
      (deltaRun .waitPre bs = .waitSb1 ↔ [0x00#8] <:+ bs ∧ deltaRun .waitPre bs ≠ .waitSb2)) ∧
    ((∃ k, k ≤ bs.length ∧ deltaRun .waitPre (bs.take k) = .matched) ↔ preamblePattern <:+: bs)

/-- FrameByte is the data frame of the payload, index by index (42_frame_writer.md R161, 30_encoding.md R93). -/
def Obligations.FrameByteIsTheDataFrame : Prop :=
  ∀ (s : State) (k : Nat), k ≤ 7 + s.txLen.toNat →
    (dataFrame (bufBytes s .tx 0 s.txLen.toNat))[k]? = some (frameByte s k)

/-- The scan answers exactly the value slice of an entry it reaches whose one-byte tag is the target, whose header stands
in the window and whose value ends in it (43_tlv.md R181, R182). -/
def Obligations.ScanFindsTheFirstMatchingEntry : Prop :=
  ∀ (s : State) (sel : Sel) (base n off : Nat) (target marker len : Byte),
    scan s sel base n target marker = some (off, len) ↔
      ∃ i, EntryReached (bufRead s sel) (base + n) target marker base i ∧ i + 1 < base + n ∧
        bufRead s sel i ≠ marker ∧ bufRead s sel i = target ∧ len = bufRead s sel (i + 1) ∧ off = i + 2 ∧
        off + len.toNat ≤ base + n

/-- The scan depends on no byte outside its window, and a search for the marker itself never finds an entry
(43_tlv.md R182, R183). -/
def Obligations.ScanReadsOnlyItsWindow : Prop :=
  (∀ (s t : State) (sel : Sel) (base n : Nat) (target marker : Byte),
    (∀ k, base ≤ k → k < base + n → bufRead s sel k = bufRead t sel k) →
    scan s sel base n target marker = scan t sel base n target marker) ∧
  ∀ (s : State) (sel : Sel) (base n : Nat) (marker : Byte), scan s sel base n marker marker = none

/-! Acceptance. -/

/-- NOP, LCS_GEN, PRE_STEP and PRE_CLR at an idle edge are latched and execute nothing yet; nothing else changes
(44_control.md R200). The word latched is the command's word (10_state.md R47). -/
def Obligations.OneCycleCommandsAreAccepted : Prop :=
  ∀ (s : State) (i : Instr), s.busy = false →
    (i = .nop ∨ (∃ len16, i = .lcsGen len16) ∨ (∃ byte, i = .preStep byte) ∨ i = .preClr) →
    ∃ t, exec i s = .next t ∧ latchedWord t = encode i ∧
      t = { s with
        busy := true, done := false, err := .ok, isAck := false, op := opcodeOf (encode i), arg := argOf (encode i),
        pendErr := .ok }

/-- DCS_GEN and FIND_TAG at an idle edge with a legal window: the command's word is latched (10_state.md R47), with a
latency in 1 to WIN_LEN + 1 (44_control.md R200, R202, R207; 00_scope.md R7). That the latency is drawn from a field of
State, and is the spec's default when no draw is given, is the model's choice (log entry 2). -/
def Obligations.WindowCommandsAreAccepted : Prop :=
  ∀ (s : State) (i : Instr) (sel : Sel), s.busy = false → (i = .dcsGen sel ∨ ∃ tag, i = .findTag tag sel) →
    s.winBase.toNat + s.winLen.toNat ≤ cap s sel →
    ∃ t lat draws, exec i s = .next t ∧ latchedWord t = encode i ∧
      1 ≤ lat ∧ lat ≤ s.winLen.toNat + 1 ∧ (s.latDraws = [] → lat = s.winLen.toNat + 1) ∧
      t = { s with
        busy := true, done := false, err := .ok, isAck := false, op := opcodeOf (encode i), arg := argOf (encode i),
        pendErr := .ok, latLeft := lat, latDraws := draws }

/-- READ_FRAME at an idle edge restarts the automaton and clears its progress registers; RXBUF keeps its bytes
(44_control.md R200, 41_frame_reader.md R126). -/
def Obligations.ReadFrameIsAccepted : Prop :=
  ∀ s : State, s.busy = false →
    exec .readFrame s = .next { s with
      busy := true, done := false, err := .ok, isAck := false, op := 0x05#8, arg := 0#24, pendErr := .ok,
      phase := .sync, sync := .waitPre, elapsed := 0#32, rxLen := 0#16, rxCnt := 0#16, lcsRx := 0#8, dcsRx := 0#8,
      postRx := 0#8, dcsCalc := 0#8, rxTotal := 0#32 }

/-- WRITE_FRAME at an idle edge with a payload that fits clears TX_CNT (44_control.md R200, 42_frame_writer.md R160). -/
def Obligations.WriteFrameIsAccepted : Prop :=
  ∀ s : State, s.busy = false → s.txLen.toNat ≤ s.txbufCap.toNat →
    exec .writeFrame s = .next { s with
      busy := true, done := false, err := .ok, isAck := false, op := 0x06#8, arg := 0#24, pendErr := .ok,
      txCnt := 0#17 }

/-- A window past its buffer, or a payload past TXBUF, is latched with PEND_ERR = RANGE and nothing of its own is written
(44_control.md R202). The word latched is the command's word (10_state.md R47). -/
def Obligations.RangeErrorIsLatched : Prop :=
  ∀ (s : State) (i : Instr), s.busy = false →
    ((∃ sel, (i = .dcsGen sel ∨ ∃ tag, i = .findTag tag sel) ∧ cap s sel < s.winBase.toNat + s.winLen.toNat) ∨
      i = .writeFrame ∧ s.txbufCap.toNat < s.txLen.toNat) →
    ∃ t, exec i s = .next t ∧ latchedWord t = encode i ∧
      t = { s with
        busy := true, done := false, err := .ok, isAck := false, op := opcodeOf (encode i), arg := argOf (encode i),
        pendErr := .range }

/-- An undefined word written to CMD while idle is accepted and completes with ILLEGAL at the next undisturbed edge,
changing nothing but STATUS, OP, ARG and PEND_ERR (44_control.md R206). -/
def Obligations.IllegalWordCompletesWithIllegal : Prop :=
  ∀ (s : State) (w : Word), s.busy = false → s.input.rst = false → cmdWord s.input.host = some w →
    definedWord w = false →
    ∃ t, step s = .next t ∧ latchedWord t = w ∧
      t = { s with
        busy := true, done := false, err := .ok, isAck := false, op := opcodeOf w, arg := argOf w, pendErr := .illegal,
        inputs := s.inputs.tail } ∧
      (t.input.rst = false → t.input.host = .none →
        step t = .next { t with busy := false, done := true, err := .illegal, inputs := t.inputs.tail })

/-! Execution edges. -/

/-- A command whose static check failed completes with that code and changes no other state (44_control.md R202, R203). -/
def Obligations.PendingErrorCompletes : Prop :=
  ∀ (s : State) (i : Instr), s.busy = true → s.pendErr ≠ .ok → i ≠ .abort →
    exec i s = .next { s with busy := false, done := true, err := s.pendErr }

/-- NOP completes with OK and changes nothing else (44_control.md R204). -/
def Obligations.NopCompletes : Prop :=
  ∀ s : State, s.busy = true → s.pendErr = .ok →
    exec .nop s = .next { s with busy := false, done := true, err := .ok }

/-- LCS_GEN writes RES and completes with OK; nothing else changes (40_checksum.md R104). -/
def Obligations.LcsGenCompletes : Prop :=
  ∀ (s : State) (len16 : BitVec 16), s.busy = true → s.pendErr = .ok →
    exec (.lcsGen len16) s = .next { s with res := lcs len16, busy := false, done := true, err := .ok }

/-- DCS_GEN writes RES with the window's checksum at its completion edge, and changes no register before it
(40_checksum.md R105; the latency counter is the model's own, log entry 2). -/
def Obligations.DcsGenCompletesAtItsEdge : Prop :=
  ∀ (s : State) (sel : Sel), s.busy = true → s.pendErr = .ok →
    (s.latLeft = 1 → exec (.dcsGen sel) s = .next { s with
      res := dcs (bufBytes s sel s.winBase.toNat s.winLen.toNat), busy := false, done := true, err := .ok }) ∧
    (1 < s.latLeft → exec (.dcsGen sel) s = .next { s with latLeft := s.latLeft - 1 })

/-- PRE_STEP feeds one byte to the automaton; nothing else changes (41_frame_reader.md R123). -/
def Obligations.PreStepCompletes : Prop :=
  ∀ (s : State) (byte : Byte), s.busy = true → s.pendErr = .ok →
    exec (.preStep byte) s = .next { s with sync := delta s.sync byte, busy := false, done := true, err := .ok }

/-- PRE_CLR returns the automaton to WAIT_PRE; nothing else changes (41_frame_reader.md R124). -/
def Obligations.PreClrCompletes : Prop :=
  ∀ s : State, s.busy = true → s.pendErr = .ok →
    exec .preClr s = .next { s with sync := .waitPre, busy := false, done := true, err := .ok }

/-- FIND_TAG at its completion edge writes the slice it found, or 0 and NOT_FOUND; before it, nothing but the latency
counter, the model's own (log entry 2), changes (43_tlv.md R180, R184, R185). -/
def Obligations.FindTagCompletesAtItsEdge : Prop :=
  ∀ (s : State) (tag : Byte) (sel : Sel), s.busy = true → s.pendErr = .ok →
    (∀ off len, s.latLeft = 1 → scan s sel s.winBase.toNat s.winLen.toNat tag s.marker = some (off, len) →
      exec (.findTag tag sel) s = .next { s with
        tlvOff := BitVec.ofNat 16 off, tlvLen := len, tlvFound := true, busy := false, done := true, err := .ok }) ∧
    (s.latLeft = 1 → scan s sel s.winBase.toNat s.winLen.toNat tag s.marker = none →
      exec (.findTag tag sel) s = .next { s with
        tlvOff := 0#16, tlvLen := 0#8, tlvFound := false, busy := false, done := true, err := .notFound }) ∧
    (1 < s.latLeft → exec (.findTag tag sel) s = .next { s with latLeft := s.latLeft - 1 })

/-- WRITE_FRAME hands over one frame byte at each edge with `tx_ready`, completes with the last one, and changes nothing
at an edge without `tx_ready` (42_frame_writer.md R160, R163). The field that keeps the bytes sent is the model's own (log
entry 8). -/
def Obligations.WriteFrameHandsOverOneByte : Prop :=
  ∀ s : State, writingFrame s →
    (s.input.txReady = true → s.txCnt.toNat ≠ s.txLen.toNat + 7 →
      exec .writeFrame s = .next { s with
        txSent := s.txSent ++ [frameByte s s.txCnt.toNat], txCnt := s.txCnt + 1#17 }) ∧
    (s.input.txReady = true → s.txCnt.toNat = s.txLen.toNat + 7 →
      exec .writeFrame s = .next { s with
        txSent := s.txSent ++ [0x00#8], txCnt := s.txCnt + 1#17, busy := false, done := true, err := .ok }) ∧
    (s.input.txReady = false → exec .writeFrame s = .next s)

/-- READ_FRAME in phase SYNC (41_frame_reader.md R132). -/
def Obligations.ReadFrameSyncPhase : Prop :=
  ∀ (s : State) (b : Byte), byteArrives s b → s.phase = .sync →
    exec .readFrame s = .next { s with
      sync := delta s.sync b, phase := if delta s.sync b = .matched then .lenH else .sync,
      rxTotal := satSucc s.rxTotal, elapsed := tickedElapsed s }

/-- READ_FRAME in the phases LENH and LENL (41_frame_reader.md R133, R134). -/
def Obligations.ReadFrameLengthPhases : Prop :=
  ∀ (s : State) (b : Byte), byteArrives s b →
    (s.phase = .lenH → exec .readFrame s = .next { s with
      rxLen := b ++ 0x00#8, phase := .lenL, rxTotal := satSucc s.rxTotal, elapsed := tickedElapsed s }) ∧
    (s.phase = .lenL → exec .readFrame s = .next { s with
      rxLen := s.rxLen.extractLsb' 8 8 ++ b, phase := .lcs, rxTotal := satSucc s.rxTotal, elapsed := tickedElapsed s })

/-- READ_FRAME in phase LCS: the ACK test, the LCS test, the OVERFLOW test, then an empty or a non-empty payload
(41_frame_reader.md R135). -/
def Obligations.ReadFrameLcsPhase : Prop :=
  ∀ (s : State) (b : Byte), byteArrives s b → s.phase = .lcs →
    exec .readFrame s = .next
      (if s.rxLen = 0#16 ∧ b = 0xFF#8 then
        { s with lcsRx := b, phase := .ackPost, rxTotal := satSucc s.rxTotal, elapsed := tickedElapsed s }
      else if b ≠ lcs s.rxLen then
        { s with lcsRx := b, busy := false, done := true, err := .lcsErr, rxTotal := satSucc s.rxTotal }
      else if s.rxbufCap.toNat < s.rxLen.toNat then
        { s with lcsRx := b, busy := false, done := true, err := .overflow, rxTotal := satSucc s.rxTotal }
      else
        { s with
          lcsRx := b, phase := if s.rxLen = 0#16 then .dcs else .pay, rxTotal := satSucc s.rxTotal,
          elapsed := tickedElapsed s })

/-- READ_FRAME in phase ACKPOST completes with OK and IS_ACK, whatever the byte (41_frame_reader.md R136). -/
def Obligations.ReadFrameAckPostPhase : Prop :=
  ∀ (s : State) (b : Byte), byteArrives s b → s.phase = .ackPost →
    exec .readFrame s = .next { s with
      postRx := b, isAck := true, busy := false, done := true, err := .ok, rxTotal := satSucc s.rxTotal }

/-- READ_FRAME in phase PAY stores the byte at RXBUF[RX_CNT] and at no other place (41_frame_reader.md R137). -/
def Obligations.ReadFramePayPhase : Prop :=
  ∀ (s : State) (b : Byte), s.Inv → byteArrives s b → s.phase = .pay →
    ∃ t, exec .readFrame s = .next t ∧
      t = { s with
        mem := t.mem, dcsCalc := s.dcsCalc - b, rxCnt := s.rxCnt + 1#16,
        phase := if s.rxCnt.toNat + 1 = s.rxLen.toNat then .dcs else .pay, rxTotal := satSucc s.rxTotal,
        elapsed := tickedElapsed s } ∧
      bufRead t .rx s.rxCnt.toNat = b ∧
      ∀ sel k, (sel ≠ .rx ∨ k ≠ s.rxCnt.toNat) → bufRead t sel k = bufRead s sel k

/-- READ_FRAME in the phases DCS and POST: the received checksum is kept, and the command completes with OK or DCS_ERR one
byte later, whatever the postamble byte (41_frame_reader.md R138, R139). -/
def Obligations.ReadFrameChecksumPhases : Prop :=
  ∀ (s : State) (b : Byte), byteArrives s b →
    (s.phase = .dcs → exec .readFrame s = .next { s with
      dcsRx := b, phase := .post, rxTotal := satSucc s.rxTotal, elapsed := tickedElapsed s }) ∧
    (s.phase = .post → exec .readFrame s = .next { s with
      postRx := b, busy := false, done := true, err := if s.dcsRx = s.dcsCalc then .ok else .dcsErr,
      rxTotal := satSucc s.rxTotal })

/-- READ_FRAME past its deadline completes with SHORT_READ inside the header and TIMEOUT elsewhere, and consumes nothing
(41_frame_reader.md R128, R129). -/
def Obligations.ReadFrameDeadline : Prop :=
  ∀ s : State, readingFrame s → s.phase ≠ .idle → s.deadline.toNat ≤ s.elapsed.toNat →
    exec .readFrame s = .next { s with
      busy := false, done := true,
      err := if s.phase = .lenH ∨ s.phase = .lenL ∨ s.phase = .lcs then .shortRead else .timeout }

/-- READ_FRAME before its deadline, with no byte offered, changes nothing but ELAPSED (41_frame_reader.md R127, R131). -/
def Obligations.ReadFrameWaits : Prop :=
  ∀ s : State, readingFrame s → s.elapsed.toNat < s.deadline.toNat → s.input.rxValid = false →
    exec .readFrame s = .next { s with elapsed := tickedElapsed s }

/-- ABORT has no effect while idle. While busy the executing command's own step is applied in full, and unless it completed
it ends with ABORTED, PHASE, TX_CNT and the RX registers as that step left them, and ELAPSED as before the edge, because a
tick at a completion edge is ignored (44_control.md R203, R205, R207; 41_frame_reader.md R131). While the latched word is
undefined, its own step completes with ILLEGAL and ABORT has no further effect (44_control.md R205, R206). -/
def Obligations.AbortEndsTheExecutingCommand : Prop :=
  ∀ s : State,
    (s.busy = false → exec .abort s = .next s) ∧
    (∀ i : Instr, s.busy = true → decode (latchedWord s) = .ok i → i ≠ .abort →
      ∃ t, exec i s = .next t ∧
        exec .abort s = .next
          (if t.busy then { t with busy := false, done := true, err := .aborted, elapsed := s.elapsed } else t)) ∧
    (s.busy = true → s.pendErr = .illegal → (∃ e, decode (latchedWord s) = .error e) →
      exec .abort s = .next { s with busy := false, done := true, err := .illegal })

/-- No command but an executing READ_FRAME, and an ABORT of one, changes a buffer byte; those two change none but
RXBUF[RX_CNT], and that only at an edge where a payload byte arrives (20_memory.md R65, R73; 41_frame_reader.md R137). -/
def Obligations.OnlyAPayloadByteChangesABuffer : Prop :=
  ∀ (s t : State) (i : Instr), exec i s = .next t →
    ∀ sel k, bufRead t sel k ≠ bufRead s sel k →
      (i = .readFrame ∧ s.busy = true ∧ s.pendErr = .ok ∨ i = .abort ∧ readingFrame s) ∧
      s.phase = .pay ∧ s.input.rxValid = true ∧ s.elapsed.toNat < s.deadline.toNat ∧ sel = .rx ∧ k = s.rxCnt.toNat

/-! The host bus and the edge. -/

/-- The address map: every register at its offset, the two windows word by word, nothing elsewhere, and address bits [1:0]
ignored (10_state.md R51, 20_memory.md R61, R62; that the alignment holds for CMD too is the model's reading, log
entry 16). -/
def Obligations.AddressMap : Prop :=
  (locate 0x00000#18 = .reg .id ∧ locate 0x00004#18 = .reg .cfg ∧ locate 0x00008#18 = .reg .cmd ∧
    locate 0x0000C#18 = .reg .status ∧ locate 0x00010#18 = .reg .deadline ∧ locate 0x00014#18 = .reg .elapsed ∧
    locate 0x00018#18 = .reg .txLen ∧ locate 0x0001C#18 = .reg .txCnt ∧ locate 0x00020#18 = .reg .rxLen ∧
    locate 0x00024#18 = .reg .rxCnt ∧ locate 0x00028#18 = .reg .rxChk ∧ locate 0x0002C#18 = .reg .rxTotal ∧
    locate 0x00030#18 = .reg .winBase ∧ locate 0x00034#18 = .reg .winLen ∧ locate 0x00038#18 = .reg .res ∧
    locate 0x0003C#18 = .reg .tlvRes ∧ locate 0x00040#18 = .reg .caps) ∧
  (∀ k : Nat, 17 ≤ k → k < 0x4000 → locate (BitVec.ofNat 18 (4 * k)) = .unmapped) ∧
  (∀ k : Nat, k < 0x4000 →
    locate (BitVec.ofNat 18 (0x10000 + 4 * k)) = .buf .tx (4 * k) ∧
    locate (BitVec.ofNat 18 (0x20000 + 4 * k)) = .buf .rx (4 * k) ∧
    locate (BitVec.ofNat 18 (0x30000 + 4 * k)) = .unmapped) ∧
  ∀ a : Addr, locate a = locate (a &&& 0x3FFFC#18)

/-- STATUS, CFG, RX_CHK, TLV_RES and the registers of one field, as the host reads them; CMD reads 0 (10_state.md R22 to
R24, R33 to R44). SYNC, ERR and PHASE show the numbers of 41_frame_reader.md R120, 60_exceptions.md R220 and 10_state.md
R31. -/
def Obligations.RegistersReadTheirFields : Prop :=
  ∀ s : State,
    (∃ w, hostRead s 0x0000C#18 = w ∧
      w.getLsbD 0 = s.busy ∧ w.getLsbD 1 = s.done ∧ w.getLsbD 2 = s.isAck ∧ w.getLsbD 3 = s.bwe ∧
      (s.sync, (w.extractLsb' 4 2).toNat) ∈ [(.waitPre, 0), (.waitSb1, 1), (.waitSb2, 2), (.matched, 3)] ∧
      w.extractLsb' 6 2 = 0#2 ∧
      (s.err, (w.extractLsb' 8 4).toNat) ∈ [(Code.ok, 0), (.timeout, 1), (.shortRead, 2), (.lcsErr, 3), (.dcsErr, 4),
        (.overflow, 5), (.notFound, 6), (.range, 7), (.illegal, 8), (.aborted, 9)] ∧
      (s.phase, (w.extractLsb' 12 4).toNat) ∈ [(Phase.idle, 0), (.sync, 1), (.lenH, 2), (.lenL, 3), (.lcs, 4),
        (.ackPost, 5), (.pay, 6), (.dcs, 7), (.post, 8)] ∧
      w.extractLsb' 16 8 = s.op ∧ w.extractLsb' 24 8 = 0#8) ∧
    (∃ w, hostRead s 0x00004#18 = w ∧ w.getLsbD 0 = s.ie ∧ w.extractLsb' 1 7 = 0#7 ∧ w.extractLsb' 8 8 = s.marker ∧
      w.extractLsb' 16 16 = 0#16) ∧
    (∃ w, hostRead s 0x00028#18 = w ∧ w.extractLsb' 0 8 = s.lcsRx ∧ w.extractLsb' 8 8 = s.dcsRx ∧
      w.extractLsb' 16 8 = s.postRx ∧ w.extractLsb' 24 8 = s.dcsCalc) ∧
    (∃ w, hostRead s 0x0003C#18 = w ∧ w.extractLsb' 0 16 = s.tlvOff ∧ w.extractLsb' 16 8 = s.tlvLen ∧
      w.getLsbD 24 = s.tlvFound ∧ w.extractLsb' 25 7 = 0#7) ∧
    hostRead s 0x00008#18 = 0#32 ∧
    hostRead s 0x00010#18 = s.deadline ∧ hostRead s 0x00014#18 = s.elapsed ∧ hostRead s 0x0002C#18 = s.rxTotal ∧
    (hostRead s 0x00018#18).toNat = s.txLen.toNat ∧ (hostRead s 0x0001C#18).toNat = s.txCnt.toNat ∧
    (hostRead s 0x00020#18).toNat = s.rxLen.toNat ∧ (hostRead s 0x00024#18).toNat = s.rxCnt.toNat ∧
    (hostRead s 0x00030#18).toNat = s.winBase.toNat ∧ (hostRead s 0x00034#18).toNat = s.winLen.toNat ∧
    (hostRead s 0x00038#18).toNat = s.res.toNat

/-- `irq` is CFG.IE and STATUS.DONE, as the host reads them (60_exceptions.md R232). -/
def Obligations.IrqFollowsDone : Prop :=
  ∀ s : State, irq s = ((hostRead s 0x00004#18).getLsbD 0 && (hostRead s 0x0000C#18).getLsbD 1)

/-- The operand registers, CFG.MARKER and TXBUF keep their values at every edge that begins busy, whatever the host writes;
a CFG write at such an edge sets CFG.IE from bit 0 and leaves BWE, and nothing else writes CFG.IE (10_state.md R22,
20_memory.md R73, R76, R77). -/
def Obligations.OperandsAreStableWhileBusy : Prop :=
  ∀ s t : State, s.busy = true → s.input.rst = false → step s = .next t →
    t.deadline = s.deadline ∧ t.txLen = s.txLen ∧ t.winBase = s.winBase ∧ t.winLen = s.winLen ∧ t.marker = s.marker ∧
    (∀ k, bufRead t .tx k = bufRead s .tx k) ∧
    (∀ a v, s.input.host = .write a v → locate a = .reg .cfg → t.ie = v.getLsbD 0 ∧ t.bwe = s.bwe) ∧
    ((∀ a v, s.input.host = .write a v → locate a ≠ .reg .cfg) → t.ie = s.ie)

/-- BWE is set at exactly the edges that drop a host write, and only a W1C clears it (10_state.md R28). That a busy write
to a window word past the capacity counts as dropped is the model's reading (log entry 15). -/
def Obligations.BweIsSetByDroppedWrites : Prop :=
  ∀ s t : State, s.input.rst = false → step s = .next t →
    (t.bwe = true ↔ dropsWrite s ∨ s.bwe = true ∧ ¬ clearsBwe s)

/-- A busy edge that drops a host write is otherwise the same edge without the host (20_memory.md R77, 44_control.md
R201; log entry 15). -/
def Obligations.DroppedWriteChangesOnlyBwe : Prop :=
  ∀ s t u : State, dropsWrite s → s.input.rst = false → step (withoutHost s) = .next t → step s = .next u →
    u = { t with bwe := true }

/-- A write to an unmapped word or to a read-only register has no effect, even while busy, and an unmapped word reads 0
(20_memory.md R63, 10_state.md R46). -/
def Obligations.ReadOnlyAndUnmappedWritesAreIgnored : Prop :=
  ∀ (s : State) (a : Addr),
    (locate a = .unmapped → hostRead s a = 0#32) ∧
    ∀ v : Word, s.input.host = .write a v →
      locate a ∈ [Loc.unmapped, .reg .id, .reg .elapsed, .reg .txCnt, .reg .rxLen, .reg .rxCnt, .reg .rxChk, .reg .rxTotal,
        .reg .res, .reg .tlvRes, .reg .caps] →
      step s = step (withoutHost s)

/-- A register that the host writes while idle reads back what was written, in the bits it has, and no other state changes
but the script (10_state.md R22, R33, R35, R41, R42, R46). -/
def Obligations.IdleRegisterWrite : Prop :=
  ∀ (s : State) (a : Addr) (v : Word), s.busy = false → s.input.rst = false → s.input.host = .write a v →
    (locate a = .reg .deadline → step s = .next { s with deadline := v, inputs := s.inputs.tail }) ∧
    (locate a = .reg .txLen → step s = .next { s with txLen := v.extractLsb' 0 16, inputs := s.inputs.tail }) ∧
    (locate a = .reg .winBase → step s = .next { s with winBase := v.extractLsb' 0 16, inputs := s.inputs.tail }) ∧
    (locate a = .reg .winLen → step s = .next { s with winLen := v.extractLsb' 0 16, inputs := s.inputs.tail }) ∧
    (locate a = .reg .cfg → step s = .next { s with
      ie := v.getLsbD 0, marker := v.extractLsb' 8 8, inputs := s.inputs.tail }) ∧
    (locate a = .reg .status → step s = .next { s with
      done := s.done && !v.getLsbD 1, bwe := s.bwe && !v.getLsbD 3, inputs := s.inputs.tail })

/-- A word written to a buffer window while idle changes exactly its four bytes, those that exist, and reads back
little-endian with the others 0 (20_memory.md R64, R65). -/
def Obligations.IdleBufferWordWrite : Prop :=
  ∀ (s : State) (a : Addr) (v : Word) (sel : Sel) (i : Nat), s.busy = false → s.input.rst = false →
    s.input.host = .write a v → locate a = .buf sel i →
    ∃ t, step s = .next t ∧ t = { s with mem := t.mem, inputs := s.inputs.tail } ∧
      (∀ j, j < 4 → bufRead t sel (i + j) = if i + j < cap s sel then v.extractLsb' (8 * j) 8 else 0x00#8) ∧
      (∀ j, j < 4 → (hostRead t a).extractLsb' (8 * j) 8 = bufRead t sel (i + j)) ∧
      ∀ sel' k, (sel' ≠ sel ∨ k < i ∨ i + 4 ≤ k) → bufRead t sel' k = bufRead s sel' k

/-- An idle edge without a host write changes no state of the FSCV (44_control.md R208, 60_exceptions.md R243). At every
edge, busy and reset edges included, the host's read returns the addressed word as it stands before the edge and has no
side effect (20_memory.md R60, R71; 70_reset_and_hazards.md R250). The log of the words read is the model's own (log
entry 8). -/
def Obligations.IdleEdgeChangesNothing : Prop :=
  (∀ s : State, s.busy = false → s.input.rst = false →
    (s.input.host = .none → step s = .next { s with inputs := s.inputs.tail }) ∧
    ∀ a, s.input.host = .read a →
      step s = .next { s with inputs := s.inputs.tail, hostReads := s.hostReads ++ [hostRead s a] }) ∧
  ∀ (s : State) (a : Addr), s.input.host = .read a →
    ∃ t, step (withoutHost s) = .next t ∧ t.hostReads = s.hostReads ∧
      step s = .next { t with hostReads := s.hostReads ++ [hostRead s a] }

/-- An edge that completes a command leaves DONE = 1, whatever the host writes (10_state.md R26, 60_exceptions.md R234). -/
def Obligations.CompletionIsNeverLost : Prop :=
  ∀ s t : State, s.busy = true → s.input.rst = false → step s = .next t → t.busy = false → t.done = true

/-- RX_TOTAL counts exactly the bytes taken by an RX handshake, saturating (41_frame_reader.md R130, 20_memory.md R66). -/
def Obligations.RxTotalCountsHandshakes : Prop :=
  ∀ s t : State, s.busy = true → s.input.rst = false → step s = .next t →
    t.rxTotal.toNat =
      if rxReady s = true ∧ s.input.rxValid = true then min (s.rxTotal.toNat + 1) 0xFFFFFFFF else s.rxTotal.toNat

/-- A presented TX byte stays presented, unchanged, until its handover, an abort edge or a reset edge
(20_memory.md R67). The field that keeps the bytes sent is the model's own (log entry 8). -/
def Obligations.TxByteIsStableUntilHandover : Prop :=
  ∀ s t : State, txValid s = true → s.input.txReady = false → s.input.undisturbing → step s = .next t →
    txValid t = true ∧ txData t = txData s ∧ t.txSent = s.txSent

/-! Runs. -/

/-- DCS_GEN completes at the edge its latency names, with the checksum of the window as it stood at acceptance, and RES
keeps its value until then (40_checksum.md R105, 44_control.md R207). The counter that holds the latency, and the draws it
is taken from, are the model's own (log entry 2). -/
def Obligations.DcsGenRunsForItsLatency : Prop :=
  ∀ (s0 s : State) (sel : Sel) (ins rest : List Input), s = accept (encode (.dcsGen sel)) s0 →
    s.winBase.toNat + s.winLen.toNat ≤ cap s sel → s.inputs = ins ++ rest → ins.length = s.latLeft →
    (∀ i ∈ ins, i.undisturbing) →
    (∀ k, k < ins.length → ∃ t, runsTo k s t ∧ t.busy = true ∧ t.res = s0.res) ∧
    ∃ t, runsTo ins.length s t ∧ t.busy = false ∧ t.done = true ∧ t.err = .ok ∧
      t.res = dcs (bufBytes s0 sel s0.winBase.toNat s0.winLen.toNat)

/-- WRITE_FRAME with `tx_ready` in every cycle hands over exactly the data frame of its payload, in order, and completes
with its last byte (42_frame_writer.md R161, R163, R164). The field that keeps the bytes sent is the model's own (log entry
8). -/
def Obligations.WriteFrameSendsTheDataFrame : Prop :=
  ∀ (s0 s : State) (ins rest : List Input), s = accept (encode .writeFrame) s0 →
    s0.txLen.toNat ≤ s0.txbufCap.toNat → s.inputs = ins ++ rest → ins.length = s0.txLen.toNat + 8 →
    (∀ i ∈ ins, i.undisturbing ∧ i.txReady = true) →
    ∃ t, runsTo ins.length s t ∧ t.busy = false ∧ t.done = true ∧ t.err = .ok ∧
      t.txCnt.toNat = s0.txLen.toNat + 8 ∧ t.txSent = s0.txSent ++ dataFrame (bufBytes s0 .tx 0 s0.txLen.toNat)

/-- READ_FRAME skips bytes without the preamble pattern, then receives a data frame that fits: OK, not an ACK, the payload
in RXBUF, every byte counted (41_frame_reader.md R142). -/
def Obligations.ReadFrameReceivesADataFrame : Prop :=
  ∀ (s0 s : State) (g p : List Byte) (ins rest : List Input), s = accept (encode .readFrame) s0 →
    p.length ≤ s0.rxbufCap.toNat → ¬ preamblePattern <:+: g → s.inputs = ins ++ rest →
    presents ins (g ++ dataFrame p) → tickCount ins < s0.deadline.toNat →
    ∃ t, runsTo ins.length s t ∧ t.busy = false ∧ t.done = true ∧ t.err = .ok ∧ t.isAck = false ∧
      t.rxLen.toNat = p.length ∧ t.rxCnt.toNat = p.length ∧ bufBytes t .rx 0 p.length = p ∧
      t.rxTotal.toNat = min (g.length + p.length + 8) 0xFFFFFFFF

/-- READ_FRAME skips bytes without the preamble pattern, then receives an ACK frame (41_frame_reader.md R142). -/
def Obligations.ReadFrameReceivesAnAck : Prop :=
  ∀ (s0 s : State) (g : List Byte) (ins rest : List Input), s = accept (encode .readFrame) s0 →
    ¬ preamblePattern <:+: g → s.inputs = ins ++ rest → presents ins (g ++ ackFrame) →
    tickCount ins < s0.deadline.toNat →
    ∃ t, runsTo ins.length s t ∧ t.busy = false ∧ t.done = true ∧ t.err = .ok ∧ t.isAck = true ∧
      t.rxLen = 0#16 ∧ t.rxCnt = 0#16 ∧ t.rxTotal.toNat = min (g.length + 7) 0xFFFFFFFF

/-- READ_FRAME with no byte and a tick at every edge times out at the first edge where ELAPSED has reached DEADLINE
(41_frame_reader.md R144, 70_reset_and_hazards.md R259). -/
def Obligations.ReadFrameTimesOut : Prop :=
  ∀ (s0 s : State) (ins rest : List Input), s = accept (encode .readFrame) s0 → s.inputs = ins ++ rest →
    ins.length = s0.deadline.toNat + 1 →
    (∀ i ∈ ins, i.undisturbing ∧ i.rxValid = false ∧ i.tick = true) →
    (∀ k, k < ins.length → ∃ t, runsTo k s t ∧ t.busy = true) ∧
    ∃ t, runsTo ins.length s t ∧ t.busy = false ∧ t.done = true ∧ t.err = .timeout ∧ t.phase = .sync ∧
      t.elapsed = s0.deadline

/-- What one FSCV's WRITE_FRAME sends with `tx_ready` in every cycle, another one's READ_FRAME receives, after bytes
without the preamble pattern: the payload comes back (from 41_frame_reader.md R143, which does not ask for `tx_ready` in
every cycle). The field that keeps the bytes sent is the model's own (log entry 8). -/
def Obligations.FrameRoundTrip : Prop :=
  ∀ (w0 w w' r0 r : State) (g p : List Byte) (insW restW insR restR : List Input),
    w = accept (encode .writeFrame) w0 → w0.txLen.toNat ≤ w0.txbufCap.toNat → p = bufBytes w0 .tx 0 w0.txLen.toNat →
    w.inputs = insW ++ restW → insW.length = p.length + 8 → (∀ i ∈ insW, i.undisturbing ∧ i.txReady = true) →
    runsTo insW.length w w' →
    r = accept (encode .readFrame) r0 → p.length ≤ r0.rxbufCap.toNat → r.inputs = insR ++ restR →
    ¬ preamblePattern <:+: g → presents insR (g ++ w'.txSent.drop w.txSent.length) → tickCount insR < r0.deadline.toNat →
    ∃ t, runsTo insR.length r t ∧ t.done = true ∧ t.err = .ok ∧ t.isAck = false ∧ t.rxLen.toNat = p.length ∧
      t.rxCnt.toNat = p.length ∧ bufBytes t .rx 0 p.length = p
end

