-- ==== Sys2Proof/Laws/State.lean ====
section
/-! SUPPORT. One lemma per field per named update of State, each true by rfl: what the update writes, and that it writes
nothing else. Later proofs rewrite with these and never unfold a record update. -/

namespace Sys2Proof.Machine

/-! `finish` (44_control.md R203). -/

@[simp] theorem finish_txbufCap (e : Code) (s : State) : (finish e s).txbufCap = s.txbufCap := rfl
@[simp] theorem finish_rxbufCap (e : Code) (s : State) : (finish e s).rxbufCap = s.rxbufCap := rfl
@[simp] theorem finish_ie (e : Code) (s : State) : (finish e s).ie = s.ie := rfl
@[simp] theorem finish_marker (e : Code) (s : State) : (finish e s).marker = s.marker := rfl
@[simp] theorem finish_busy (e : Code) (s : State) : (finish e s).busy = false := rfl
@[simp] theorem finish_done (e : Code) (s : State) : (finish e s).done = true := rfl
@[simp] theorem finish_isAck (e : Code) (s : State) : (finish e s).isAck = s.isAck := rfl
@[simp] theorem finish_bwe (e : Code) (s : State) : (finish e s).bwe = s.bwe := rfl
@[simp] theorem finish_sync (e : Code) (s : State) : (finish e s).sync = s.sync := rfl
@[simp] theorem finish_err (e : Code) (s : State) : (finish e s).err = e := rfl
@[simp] theorem finish_phase (e : Code) (s : State) : (finish e s).phase = s.phase := rfl
@[simp] theorem finish_op (e : Code) (s : State) : (finish e s).op = s.op := rfl
@[simp] theorem finish_arg (e : Code) (s : State) : (finish e s).arg = s.arg := rfl
@[simp] theorem finish_pendErr (e : Code) (s : State) : (finish e s).pendErr = s.pendErr := rfl
@[simp] theorem finish_deadline (e : Code) (s : State) : (finish e s).deadline = s.deadline := rfl
@[simp] theorem finish_elapsed (e : Code) (s : State) : (finish e s).elapsed = s.elapsed := rfl
@[simp] theorem finish_txLen (e : Code) (s : State) : (finish e s).txLen = s.txLen := rfl
@[simp] theorem finish_txCnt (e : Code) (s : State) : (finish e s).txCnt = s.txCnt := rfl
@[simp] theorem finish_rxLen (e : Code) (s : State) : (finish e s).rxLen = s.rxLen := rfl
@[simp] theorem finish_rxCnt (e : Code) (s : State) : (finish e s).rxCnt = s.rxCnt := rfl
@[simp] theorem finish_lcsRx (e : Code) (s : State) : (finish e s).lcsRx = s.lcsRx := rfl
@[simp] theorem finish_dcsRx (e : Code) (s : State) : (finish e s).dcsRx = s.dcsRx := rfl
@[simp] theorem finish_postRx (e : Code) (s : State) : (finish e s).postRx = s.postRx := rfl
@[simp] theorem finish_dcsCalc (e : Code) (s : State) : (finish e s).dcsCalc = s.dcsCalc := rfl
@[simp] theorem finish_rxTotal (e : Code) (s : State) : (finish e s).rxTotal = s.rxTotal := rfl
@[simp] theorem finish_winBase (e : Code) (s : State) : (finish e s).winBase = s.winBase := rfl
@[simp] theorem finish_winLen (e : Code) (s : State) : (finish e s).winLen = s.winLen := rfl
@[simp] theorem finish_res (e : Code) (s : State) : (finish e s).res = s.res := rfl
@[simp] theorem finish_tlvOff (e : Code) (s : State) : (finish e s).tlvOff = s.tlvOff := rfl
@[simp] theorem finish_tlvLen (e : Code) (s : State) : (finish e s).tlvLen = s.tlvLen := rfl
@[simp] theorem finish_tlvFound (e : Code) (s : State) : (finish e s).tlvFound = s.tlvFound := rfl
@[simp] theorem finish_mem (e : Code) (s : State) : (finish e s).mem = s.mem := rfl
@[simp] theorem finish_epoch (e : Code) (s : State) : (finish e s).epoch = s.epoch := rfl
@[simp] theorem finish_latLeft (e : Code) (s : State) : (finish e s).latLeft = s.latLeft := rfl
@[simp] theorem finish_latDraws (e : Code) (s : State) : (finish e s).latDraws = s.latDraws := rfl
@[simp] theorem finish_inputs (e : Code) (s : State) : (finish e s).inputs = s.inputs := rfl
@[simp] theorem finish_txSent (e : Code) (s : State) : (finish e s).txSent = s.txSent := rfl
@[simp] theorem finish_hostReads (e : Code) (s : State) : (finish e s).hostReads = s.hostReads := rfl

/-! `latch` (44_control.md R200). -/

@[simp] theorem latch_txbufCap (s : State) (w : Word) : (latch s w).txbufCap = s.txbufCap := rfl
@[simp] theorem latch_rxbufCap (s : State) (w : Word) : (latch s w).rxbufCap = s.rxbufCap := rfl
@[simp] theorem latch_ie (s : State) (w : Word) : (latch s w).ie = s.ie := rfl
@[simp] theorem latch_marker (s : State) (w : Word) : (latch s w).marker = s.marker := rfl
@[simp] theorem latch_busy (s : State) (w : Word) : (latch s w).busy = true := rfl
@[simp] theorem latch_done (s : State) (w : Word) : (latch s w).done = false := rfl
@[simp] theorem latch_isAck (s : State) (w : Word) : (latch s w).isAck = false := rfl
@[simp] theorem latch_bwe (s : State) (w : Word) : (latch s w).bwe = s.bwe := rfl
@[simp] theorem latch_sync (s : State) (w : Word) : (latch s w).sync = s.sync := rfl
@[simp] theorem latch_err (s : State) (w : Word) : (latch s w).err = .ok := rfl
@[simp] theorem latch_phase (s : State) (w : Word) : (latch s w).phase = s.phase := rfl
@[simp] theorem latch_op (s : State) (w : Word) : (latch s w).op = opcodeOf w := rfl
@[simp] theorem latch_arg (s : State) (w : Word) : (latch s w).arg = argOf w := rfl
@[simp] theorem latch_pendErr (s : State) (w : Word) : (latch s w).pendErr = staticCheck s w := rfl
@[simp] theorem latch_deadline (s : State) (w : Word) : (latch s w).deadline = s.deadline := rfl
@[simp] theorem latch_elapsed (s : State) (w : Word) : (latch s w).elapsed = s.elapsed := rfl
@[simp] theorem latch_txLen (s : State) (w : Word) : (latch s w).txLen = s.txLen := rfl
@[simp] theorem latch_txCnt (s : State) (w : Word) : (latch s w).txCnt = s.txCnt := rfl
@[simp] theorem latch_rxLen (s : State) (w : Word) : (latch s w).rxLen = s.rxLen := rfl
@[simp] theorem latch_rxCnt (s : State) (w : Word) : (latch s w).rxCnt = s.rxCnt := rfl
@[simp] theorem latch_lcsRx (s : State) (w : Word) : (latch s w).lcsRx = s.lcsRx := rfl
@[simp] theorem latch_dcsRx (s : State) (w : Word) : (latch s w).dcsRx = s.dcsRx := rfl
@[simp] theorem latch_postRx (s : State) (w : Word) : (latch s w).postRx = s.postRx := rfl
@[simp] theorem latch_dcsCalc (s : State) (w : Word) : (latch s w).dcsCalc = s.dcsCalc := rfl
@[simp] theorem latch_rxTotal (s : State) (w : Word) : (latch s w).rxTotal = s.rxTotal := rfl
@[simp] theorem latch_winBase (s : State) (w : Word) : (latch s w).winBase = s.winBase := rfl
@[simp] theorem latch_winLen (s : State) (w : Word) : (latch s w).winLen = s.winLen := rfl
@[simp] theorem latch_res (s : State) (w : Word) : (latch s w).res = s.res := rfl
@[simp] theorem latch_tlvOff (s : State) (w : Word) : (latch s w).tlvOff = s.tlvOff := rfl
@[simp] theorem latch_tlvLen (s : State) (w : Word) : (latch s w).tlvLen = s.tlvLen := rfl
@[simp] theorem latch_tlvFound (s : State) (w : Word) : (latch s w).tlvFound = s.tlvFound := rfl
@[simp] theorem latch_mem (s : State) (w : Word) : (latch s w).mem = s.mem := rfl
@[simp] theorem latch_epoch (s : State) (w : Word) : (latch s w).epoch = s.epoch := rfl
@[simp] theorem latch_latLeft (s : State) (w : Word) : (latch s w).latLeft = s.latLeft := rfl
@[simp] theorem latch_latDraws (s : State) (w : Word) : (latch s w).latDraws = s.latDraws := rfl
@[simp] theorem latch_inputs (s : State) (w : Word) : (latch s w).inputs = s.inputs := rfl
@[simp] theorem latch_txSent (s : State) (w : Word) : (latch s w).txSent = s.txSent := rfl
@[simp] theorem latch_hostReads (s : State) (w : Word) : (latch s w).hostReads = s.hostReads := rfl

/-! `acceptReadFrame` (41_frame_reader.md R126). -/

@[simp] theorem acceptReadFrame_txbufCap (s : State) : (acceptReadFrame s).txbufCap = s.txbufCap := rfl
@[simp] theorem acceptReadFrame_rxbufCap (s : State) : (acceptReadFrame s).rxbufCap = s.rxbufCap := rfl
@[simp] theorem acceptReadFrame_ie (s : State) : (acceptReadFrame s).ie = s.ie := rfl
@[simp] theorem acceptReadFrame_marker (s : State) : (acceptReadFrame s).marker = s.marker := rfl
@[simp] theorem acceptReadFrame_busy (s : State) : (acceptReadFrame s).busy = s.busy := rfl
@[simp] theorem acceptReadFrame_done (s : State) : (acceptReadFrame s).done = s.done := rfl
@[simp] theorem acceptReadFrame_isAck (s : State) : (acceptReadFrame s).isAck = s.isAck := rfl
@[simp] theorem acceptReadFrame_bwe (s : State) : (acceptReadFrame s).bwe = s.bwe := rfl
@[simp] theorem acceptReadFrame_sync (s : State) : (acceptReadFrame s).sync = .waitPre := rfl
@[simp] theorem acceptReadFrame_err (s : State) : (acceptReadFrame s).err = s.err := rfl
@[simp] theorem acceptReadFrame_phase (s : State) : (acceptReadFrame s).phase = .sync := rfl
@[simp] theorem acceptReadFrame_op (s : State) : (acceptReadFrame s).op = s.op := rfl
@[simp] theorem acceptReadFrame_arg (s : State) : (acceptReadFrame s).arg = s.arg := rfl
@[simp] theorem acceptReadFrame_pendErr (s : State) : (acceptReadFrame s).pendErr = s.pendErr := rfl
@[simp] theorem acceptReadFrame_deadline (s : State) : (acceptReadFrame s).deadline = s.deadline := rfl
@[simp] theorem acceptReadFrame_elapsed (s : State) : (acceptReadFrame s).elapsed = 0#32 := rfl
@[simp] theorem acceptReadFrame_txLen (s : State) : (acceptReadFrame s).txLen = s.txLen := rfl
@[simp] theorem acceptReadFrame_txCnt (s : State) : (acceptReadFrame s).txCnt = s.txCnt := rfl
@[simp] theorem acceptReadFrame_rxLen (s : State) : (acceptReadFrame s).rxLen = 0#16 := rfl
@[simp] theorem acceptReadFrame_rxCnt (s : State) : (acceptReadFrame s).rxCnt = 0#16 := rfl
@[simp] theorem acceptReadFrame_lcsRx (s : State) : (acceptReadFrame s).lcsRx = 0#8 := rfl
@[simp] theorem acceptReadFrame_dcsRx (s : State) : (acceptReadFrame s).dcsRx = 0#8 := rfl
@[simp] theorem acceptReadFrame_postRx (s : State) : (acceptReadFrame s).postRx = 0#8 := rfl
@[simp] theorem acceptReadFrame_dcsCalc (s : State) : (acceptReadFrame s).dcsCalc = 0#8 := rfl
@[simp] theorem acceptReadFrame_rxTotal (s : State) : (acceptReadFrame s).rxTotal = 0#32 := rfl
@[simp] theorem acceptReadFrame_winBase (s : State) : (acceptReadFrame s).winBase = s.winBase := rfl
@[simp] theorem acceptReadFrame_winLen (s : State) : (acceptReadFrame s).winLen = s.winLen := rfl
@[simp] theorem acceptReadFrame_res (s : State) : (acceptReadFrame s).res = s.res := rfl
@[simp] theorem acceptReadFrame_tlvOff (s : State) : (acceptReadFrame s).tlvOff = s.tlvOff := rfl
@[simp] theorem acceptReadFrame_tlvLen (s : State) : (acceptReadFrame s).tlvLen = s.tlvLen := rfl
@[simp] theorem acceptReadFrame_tlvFound (s : State) : (acceptReadFrame s).tlvFound = s.tlvFound := rfl
@[simp] theorem acceptReadFrame_mem (s : State) : (acceptReadFrame s).mem = s.mem := rfl
@[simp] theorem acceptReadFrame_epoch (s : State) : (acceptReadFrame s).epoch = s.epoch := rfl
@[simp] theorem acceptReadFrame_latLeft (s : State) : (acceptReadFrame s).latLeft = s.latLeft := rfl
@[simp] theorem acceptReadFrame_latDraws (s : State) : (acceptReadFrame s).latDraws = s.latDraws := rfl
@[simp] theorem acceptReadFrame_inputs (s : State) : (acceptReadFrame s).inputs = s.inputs := rfl
@[simp] theorem acceptReadFrame_txSent (s : State) : (acceptReadFrame s).txSent = s.txSent := rfl
@[simp] theorem acceptReadFrame_hostReads (s : State) : (acceptReadFrame s).hostReads = s.hostReads := rfl

/-! `drawLatency` (44_control.md R207). -/

@[simp] theorem drawLatency_txbufCap (s : State) : (drawLatency s).txbufCap = s.txbufCap := rfl
@[simp] theorem drawLatency_rxbufCap (s : State) : (drawLatency s).rxbufCap = s.rxbufCap := rfl
@[simp] theorem drawLatency_ie (s : State) : (drawLatency s).ie = s.ie := rfl
@[simp] theorem drawLatency_marker (s : State) : (drawLatency s).marker = s.marker := rfl
@[simp] theorem drawLatency_busy (s : State) : (drawLatency s).busy = s.busy := rfl
@[simp] theorem drawLatency_done (s : State) : (drawLatency s).done = s.done := rfl
@[simp] theorem drawLatency_isAck (s : State) : (drawLatency s).isAck = s.isAck := rfl
@[simp] theorem drawLatency_bwe (s : State) : (drawLatency s).bwe = s.bwe := rfl
@[simp] theorem drawLatency_sync (s : State) : (drawLatency s).sync = s.sync := rfl
@[simp] theorem drawLatency_err (s : State) : (drawLatency s).err = s.err := rfl
@[simp] theorem drawLatency_phase (s : State) : (drawLatency s).phase = s.phase := rfl
@[simp] theorem drawLatency_op (s : State) : (drawLatency s).op = s.op := rfl
@[simp] theorem drawLatency_arg (s : State) : (drawLatency s).arg = s.arg := rfl
@[simp] theorem drawLatency_pendErr (s : State) : (drawLatency s).pendErr = s.pendErr := rfl
@[simp] theorem drawLatency_deadline (s : State) : (drawLatency s).deadline = s.deadline := rfl
@[simp] theorem drawLatency_elapsed (s : State) : (drawLatency s).elapsed = s.elapsed := rfl
@[simp] theorem drawLatency_txLen (s : State) : (drawLatency s).txLen = s.txLen := rfl
@[simp] theorem drawLatency_txCnt (s : State) : (drawLatency s).txCnt = s.txCnt := rfl
@[simp] theorem drawLatency_rxLen (s : State) : (drawLatency s).rxLen = s.rxLen := rfl
@[simp] theorem drawLatency_rxCnt (s : State) : (drawLatency s).rxCnt = s.rxCnt := rfl
@[simp] theorem drawLatency_lcsRx (s : State) : (drawLatency s).lcsRx = s.lcsRx := rfl
@[simp] theorem drawLatency_dcsRx (s : State) : (drawLatency s).dcsRx = s.dcsRx := rfl
@[simp] theorem drawLatency_postRx (s : State) : (drawLatency s).postRx = s.postRx := rfl
@[simp] theorem drawLatency_dcsCalc (s : State) : (drawLatency s).dcsCalc = s.dcsCalc := rfl
@[simp] theorem drawLatency_rxTotal (s : State) : (drawLatency s).rxTotal = s.rxTotal := rfl
@[simp] theorem drawLatency_winBase (s : State) : (drawLatency s).winBase = s.winBase := rfl
@[simp] theorem drawLatency_winLen (s : State) : (drawLatency s).winLen = s.winLen := rfl
@[simp] theorem drawLatency_res (s : State) : (drawLatency s).res = s.res := rfl
@[simp] theorem drawLatency_tlvOff (s : State) : (drawLatency s).tlvOff = s.tlvOff := rfl
@[simp] theorem drawLatency_tlvLen (s : State) : (drawLatency s).tlvLen = s.tlvLen := rfl
@[simp] theorem drawLatency_tlvFound (s : State) : (drawLatency s).tlvFound = s.tlvFound := rfl
@[simp] theorem drawLatency_mem (s : State) : (drawLatency s).mem = s.mem := rfl
@[simp] theorem drawLatency_epoch (s : State) : (drawLatency s).epoch = s.epoch := rfl
@[simp] theorem drawLatency_latLeft (s : State) : (drawLatency s).latLeft = latency s.winLen.toNat s.latDraws := rfl
@[simp] theorem drawLatency_latDraws (s : State) : (drawLatency s).latDraws = s.latDraws.tail := rfl
@[simp] theorem drawLatency_inputs (s : State) : (drawLatency s).inputs = s.inputs := rfl
@[simp] theorem drawLatency_txSent (s : State) : (drawLatency s).txSent = s.txSent := rfl
@[simp] theorem drawLatency_hostReads (s : State) : (drawLatency s).hostReads = s.hostReads := rfl

/-! `handOver` (42_frame_writer.md R160). -/

@[simp] theorem handOver_txbufCap (s : State) : (handOver s).txbufCap = s.txbufCap := rfl
@[simp] theorem handOver_rxbufCap (s : State) : (handOver s).rxbufCap = s.rxbufCap := rfl
@[simp] theorem handOver_ie (s : State) : (handOver s).ie = s.ie := rfl
@[simp] theorem handOver_marker (s : State) : (handOver s).marker = s.marker := rfl
@[simp] theorem handOver_busy (s : State) : (handOver s).busy = s.busy := rfl
@[simp] theorem handOver_done (s : State) : (handOver s).done = s.done := rfl
@[simp] theorem handOver_isAck (s : State) : (handOver s).isAck = s.isAck := rfl
@[simp] theorem handOver_bwe (s : State) : (handOver s).bwe = s.bwe := rfl
@[simp] theorem handOver_sync (s : State) : (handOver s).sync = s.sync := rfl
@[simp] theorem handOver_err (s : State) : (handOver s).err = s.err := rfl
@[simp] theorem handOver_phase (s : State) : (handOver s).phase = s.phase := rfl
@[simp] theorem handOver_op (s : State) : (handOver s).op = s.op := rfl
@[simp] theorem handOver_arg (s : State) : (handOver s).arg = s.arg := rfl
@[simp] theorem handOver_pendErr (s : State) : (handOver s).pendErr = s.pendErr := rfl
@[simp] theorem handOver_deadline (s : State) : (handOver s).deadline = s.deadline := rfl
@[simp] theorem handOver_elapsed (s : State) : (handOver s).elapsed = s.elapsed := rfl
@[simp] theorem handOver_txLen (s : State) : (handOver s).txLen = s.txLen := rfl
@[simp] theorem handOver_txCnt (s : State) : (handOver s).txCnt = s.txCnt + 1#17 := rfl
@[simp] theorem handOver_rxLen (s : State) : (handOver s).rxLen = s.rxLen := rfl
@[simp] theorem handOver_rxCnt (s : State) : (handOver s).rxCnt = s.rxCnt := rfl
@[simp] theorem handOver_lcsRx (s : State) : (handOver s).lcsRx = s.lcsRx := rfl
@[simp] theorem handOver_dcsRx (s : State) : (handOver s).dcsRx = s.dcsRx := rfl
@[simp] theorem handOver_postRx (s : State) : (handOver s).postRx = s.postRx := rfl
@[simp] theorem handOver_dcsCalc (s : State) : (handOver s).dcsCalc = s.dcsCalc := rfl
@[simp] theorem handOver_rxTotal (s : State) : (handOver s).rxTotal = s.rxTotal := rfl
@[simp] theorem handOver_winBase (s : State) : (handOver s).winBase = s.winBase := rfl
@[simp] theorem handOver_winLen (s : State) : (handOver s).winLen = s.winLen := rfl
@[simp] theorem handOver_res (s : State) : (handOver s).res = s.res := rfl
@[simp] theorem handOver_tlvOff (s : State) : (handOver s).tlvOff = s.tlvOff := rfl
@[simp] theorem handOver_tlvLen (s : State) : (handOver s).tlvLen = s.tlvLen := rfl
@[simp] theorem handOver_tlvFound (s : State) : (handOver s).tlvFound = s.tlvFound := rfl
@[simp] theorem handOver_mem (s : State) : (handOver s).mem = s.mem := rfl
@[simp] theorem handOver_epoch (s : State) : (handOver s).epoch = s.epoch := rfl
@[simp] theorem handOver_latLeft (s : State) : (handOver s).latLeft = s.latLeft := rfl
@[simp] theorem handOver_latDraws (s : State) : (handOver s).latDraws = s.latDraws := rfl
@[simp] theorem handOver_inputs (s : State) : (handOver s).inputs = s.inputs := rfl
@[simp] theorem handOver_txSent (s : State) : (handOver s).txSent = s.txSent ++ [frameByte s s.txCnt.toNat] := rfl
@[simp] theorem handOver_hostReads (s : State) : (handOver s).hostReads = s.hostReads := rfl

/-! `dropWrite` (20_memory.md R77). -/

@[simp] theorem dropWrite_txbufCap (s : State) : (dropWrite s).txbufCap = s.txbufCap := rfl
@[simp] theorem dropWrite_rxbufCap (s : State) : (dropWrite s).rxbufCap = s.rxbufCap := rfl
@[simp] theorem dropWrite_ie (s : State) : (dropWrite s).ie = s.ie := rfl
@[simp] theorem dropWrite_marker (s : State) : (dropWrite s).marker = s.marker := rfl
@[simp] theorem dropWrite_busy (s : State) : (dropWrite s).busy = s.busy := rfl
@[simp] theorem dropWrite_done (s : State) : (dropWrite s).done = s.done := rfl
@[simp] theorem dropWrite_isAck (s : State) : (dropWrite s).isAck = s.isAck := rfl
@[simp] theorem dropWrite_bwe (s : State) : (dropWrite s).bwe = true := rfl
@[simp] theorem dropWrite_sync (s : State) : (dropWrite s).sync = s.sync := rfl
@[simp] theorem dropWrite_err (s : State) : (dropWrite s).err = s.err := rfl
@[simp] theorem dropWrite_phase (s : State) : (dropWrite s).phase = s.phase := rfl
@[simp] theorem dropWrite_op (s : State) : (dropWrite s).op = s.op := rfl
@[simp] theorem dropWrite_arg (s : State) : (dropWrite s).arg = s.arg := rfl
@[simp] theorem dropWrite_pendErr (s : State) : (dropWrite s).pendErr = s.pendErr := rfl
@[simp] theorem dropWrite_deadline (s : State) : (dropWrite s).deadline = s.deadline := rfl
@[simp] theorem dropWrite_elapsed (s : State) : (dropWrite s).elapsed = s.elapsed := rfl
@[simp] theorem dropWrite_txLen (s : State) : (dropWrite s).txLen = s.txLen := rfl
@[simp] theorem dropWrite_txCnt (s : State) : (dropWrite s).txCnt = s.txCnt := rfl
@[simp] theorem dropWrite_rxLen (s : State) : (dropWrite s).rxLen = s.rxLen := rfl
@[simp] theorem dropWrite_rxCnt (s : State) : (dropWrite s).rxCnt = s.rxCnt := rfl
@[simp] theorem dropWrite_lcsRx (s : State) : (dropWrite s).lcsRx = s.lcsRx := rfl
@[simp] theorem dropWrite_dcsRx (s : State) : (dropWrite s).dcsRx = s.dcsRx := rfl
@[simp] theorem dropWrite_postRx (s : State) : (dropWrite s).postRx = s.postRx := rfl
@[simp] theorem dropWrite_dcsCalc (s : State) : (dropWrite s).dcsCalc = s.dcsCalc := rfl
@[simp] theorem dropWrite_rxTotal (s : State) : (dropWrite s).rxTotal = s.rxTotal := rfl
@[simp] theorem dropWrite_winBase (s : State) : (dropWrite s).winBase = s.winBase := rfl
@[simp] theorem dropWrite_winLen (s : State) : (dropWrite s).winLen = s.winLen := rfl
@[simp] theorem dropWrite_res (s : State) : (dropWrite s).res = s.res := rfl
@[simp] theorem dropWrite_tlvOff (s : State) : (dropWrite s).tlvOff = s.tlvOff := rfl
@[simp] theorem dropWrite_tlvLen (s : State) : (dropWrite s).tlvLen = s.tlvLen := rfl
@[simp] theorem dropWrite_tlvFound (s : State) : (dropWrite s).tlvFound = s.tlvFound := rfl
@[simp] theorem dropWrite_mem (s : State) : (dropWrite s).mem = s.mem := rfl
@[simp] theorem dropWrite_epoch (s : State) : (dropWrite s).epoch = s.epoch := rfl
@[simp] theorem dropWrite_latLeft (s : State) : (dropWrite s).latLeft = s.latLeft := rfl
@[simp] theorem dropWrite_latDraws (s : State) : (dropWrite s).latDraws = s.latDraws := rfl
@[simp] theorem dropWrite_inputs (s : State) : (dropWrite s).inputs = s.inputs := rfl
@[simp] theorem dropWrite_txSent (s : State) : (dropWrite s).txSent = s.txSent := rfl
@[simp] theorem dropWrite_hostReads (s : State) : (dropWrite s).hostReads = s.hostReads := rfl

/-! `writeStatus` (10_state.md R24). -/

@[simp] theorem writeStatus_txbufCap (completed : Bool) (v : Word) (s : State) :
    (writeStatus completed v s).txbufCap = s.txbufCap := rfl
@[simp] theorem writeStatus_rxbufCap (completed : Bool) (v : Word) (s : State) :
    (writeStatus completed v s).rxbufCap = s.rxbufCap := rfl
@[simp] theorem writeStatus_ie (completed : Bool) (v : Word) (s : State) :
    (writeStatus completed v s).ie = s.ie := rfl
@[simp] theorem writeStatus_marker (completed : Bool) (v : Word) (s : State) :
    (writeStatus completed v s).marker = s.marker := rfl
@[simp] theorem writeStatus_busy (completed : Bool) (v : Word) (s : State) :
    (writeStatus completed v s).busy = s.busy := rfl
@[simp] theorem writeStatus_done (completed : Bool) (v : Word) (s : State) :
    (writeStatus completed v s).done = (s.done && (completed || !v.getLsbD 1)) := rfl
@[simp] theorem writeStatus_isAck (completed : Bool) (v : Word) (s : State) :
    (writeStatus completed v s).isAck = s.isAck := rfl
@[simp] theorem writeStatus_bwe (completed : Bool) (v : Word) (s : State) :
    (writeStatus completed v s).bwe = (s.bwe && !v.getLsbD 3) := rfl
@[simp] theorem writeStatus_sync (completed : Bool) (v : Word) (s : State) :
    (writeStatus completed v s).sync = s.sync := rfl
@[simp] theorem writeStatus_err (completed : Bool) (v : Word) (s : State) :
    (writeStatus completed v s).err = s.err := rfl
@[simp] theorem writeStatus_phase (completed : Bool) (v : Word) (s : State) :
    (writeStatus completed v s).phase = s.phase := rfl
@[simp] theorem writeStatus_op (completed : Bool) (v : Word) (s : State) :
    (writeStatus completed v s).op = s.op := rfl
@[simp] theorem writeStatus_arg (completed : Bool) (v : Word) (s : State) :
    (writeStatus completed v s).arg = s.arg := rfl
@[simp] theorem writeStatus_pendErr (completed : Bool) (v : Word) (s : State) :
    (writeStatus completed v s).pendErr = s.pendErr := rfl
@[simp] theorem writeStatus_deadline (completed : Bool) (v : Word) (s : State) :
    (writeStatus completed v s).deadline = s.deadline := rfl
@[simp] theorem writeStatus_elapsed (completed : Bool) (v : Word) (s : State) :
    (writeStatus completed v s).elapsed = s.elapsed := rfl
@[simp] theorem writeStatus_txLen (completed : Bool) (v : Word) (s : State) :
    (writeStatus completed v s).txLen = s.txLen := rfl
@[simp] theorem writeStatus_txCnt (completed : Bool) (v : Word) (s : State) :
    (writeStatus completed v s).txCnt = s.txCnt := rfl
@[simp] theorem writeStatus_rxLen (completed : Bool) (v : Word) (s : State) :
    (writeStatus completed v s).rxLen = s.rxLen := rfl
@[simp] theorem writeStatus_rxCnt (completed : Bool) (v : Word) (s : State) :
    (writeStatus completed v s).rxCnt = s.rxCnt := rfl
@[simp] theorem writeStatus_lcsRx (completed : Bool) (v : Word) (s : State) :
    (writeStatus completed v s).lcsRx = s.lcsRx := rfl
@[simp] theorem writeStatus_dcsRx (completed : Bool) (v : Word) (s : State) :
    (writeStatus completed v s).dcsRx = s.dcsRx := rfl
@[simp] theorem writeStatus_postRx (completed : Bool) (v : Word) (s : State) :
    (writeStatus completed v s).postRx = s.postRx := rfl
@[simp] theorem writeStatus_dcsCalc (completed : Bool) (v : Word) (s : State) :
    (writeStatus completed v s).dcsCalc = s.dcsCalc := rfl
@[simp] theorem writeStatus_rxTotal (completed : Bool) (v : Word) (s : State) :
    (writeStatus completed v s).rxTotal = s.rxTotal := rfl
@[simp] theorem writeStatus_winBase (completed : Bool) (v : Word) (s : State) :
    (writeStatus completed v s).winBase = s.winBase := rfl
@[simp] theorem writeStatus_winLen (completed : Bool) (v : Word) (s : State) :
    (writeStatus completed v s).winLen = s.winLen := rfl
@[simp] theorem writeStatus_res (completed : Bool) (v : Word) (s : State) :
    (writeStatus completed v s).res = s.res := rfl
@[simp] theorem writeStatus_tlvOff (completed : Bool) (v : Word) (s : State) :
    (writeStatus completed v s).tlvOff = s.tlvOff := rfl
@[simp] theorem writeStatus_tlvLen (completed : Bool) (v : Word) (s : State) :
    (writeStatus completed v s).tlvLen = s.tlvLen := rfl
@[simp] theorem writeStatus_tlvFound (completed : Bool) (v : Word) (s : State) :
    (writeStatus completed v s).tlvFound = s.tlvFound := rfl
@[simp] theorem writeStatus_mem (completed : Bool) (v : Word) (s : State) :
    (writeStatus completed v s).mem = s.mem := rfl
@[simp] theorem writeStatus_epoch (completed : Bool) (v : Word) (s : State) :
    (writeStatus completed v s).epoch = s.epoch := rfl
@[simp] theorem writeStatus_latLeft (completed : Bool) (v : Word) (s : State) :
    (writeStatus completed v s).latLeft = s.latLeft := rfl
@[simp] theorem writeStatus_latDraws (completed : Bool) (v : Word) (s : State) :
    (writeStatus completed v s).latDraws = s.latDraws := rfl
@[simp] theorem writeStatus_inputs (completed : Bool) (v : Word) (s : State) :
    (writeStatus completed v s).inputs = s.inputs := rfl
@[simp] theorem writeStatus_txSent (completed : Bool) (v : Word) (s : State) :
    (writeStatus completed v s).txSent = s.txSent := rfl
@[simp] theorem writeStatus_hostReads (completed : Bool) (v : Word) (s : State) :
    (writeStatus completed v s).hostReads = s.hostReads := rfl

end Sys2Proof.Machine
end

