-- ==== Sys2Proof/Laws/PerInstr.lean ====
section
/-! SUPPORT. Statements about every instruction as syntax, one lemma per constructor. -/

namespace Sys2Proof.Laws.EncodeThenDecode

/-- The decoder reads a well-formed instruction back from its command word (30_encoding.md R81 to R90). -/
def Statement (i : Instr) : Prop := i.wellFormed = true → decode (encode i) = .ok i

theorem nop : Statement .nop := fun _ => rfl

theorem lcsGen (len16 : BitVec 16) : Statement (.lcsGen len16) := by
  intro _
  have hop : opcodeOf (encode (.lcsGen len16)) = 0x01#8 := by
    apply BitVec.eq_of_getLsbD_eq; intro k hk
    simp only [opcodeOf, encode, BitVec.getLsbD_extractLsb', hk, decide_true, Bool.true_and]
    interval_cases k <;> simp
  have hz : (encode (.lcsGen len16)).extractLsb' 24 8 = 0#8 := by
    apply BitVec.eq_of_getLsbD_eq; intro k hk
    simp only [encode, BitVec.getLsbD_extractLsb', hk, decide_true, Bool.true_and]
    interval_cases k <;> simp
  have hl : (encode (.lcsGen len16)).extractLsb' 8 16 = len16 := by
    apply BitVec.eq_of_getLsbD_eq; intro k hk
    simp only [encode, BitVec.getLsbD_extractLsb', hk, decide_true, Bool.true_and]
    interval_cases k <;> simp
  simp [decode, formatL, ifReservedZero, hop, hz, hl]

theorem dcsGen (sel : Sel) : Statement (.dcsGen sel) := by cases sel <;> exact fun _ => rfl

theorem preStep (byte : Byte) : Statement (.preStep byte) := by
  intro _
  have hop : opcodeOf (encode (.preStep byte)) = 0x03#8 := by
    apply BitVec.eq_of_getLsbD_eq; intro k hk
    simp only [opcodeOf, encode, BitVec.getLsbD_extractLsb', hk, decide_true, Bool.true_and]
    interval_cases k <;> simp
  have hz : (encode (.preStep byte)).extractLsb' 16 16 = 0#16 := by
    apply BitVec.eq_of_getLsbD_eq; intro k hk
    simp only [encode, BitVec.getLsbD_extractLsb', hk, decide_true, Bool.true_and]
    interval_cases k <;> simp
  have hl : (encode (.preStep byte)).extractLsb' 8 8 = byte := by
    apply BitVec.eq_of_getLsbD_eq; intro k hk
    simp only [encode, BitVec.getLsbD_extractLsb', hk, decide_true, Bool.true_and]
    interval_cases k <;> simp
  simp [decode, formatB, ifReservedZero, hop, hz, hl]

theorem preClr : Statement .preClr := fun _ => rfl

theorem readFrame : Statement .readFrame := fun _ => rfl

theorem writeFrame : Statement .writeFrame := fun _ => rfl

theorem findTag (tag : Byte) (sel : Sel) : Statement (.findTag tag sel) := by
  intro _
  have hop : opcodeOf (encode (.findTag tag sel)) = 0x07#8 := by
    apply BitVec.eq_of_getLsbD_eq; intro k hk
    cases sel <;> simp only [opcodeOf, encode, BitVec.getLsbD_extractLsb', hk, decide_true, Bool.true_and] <;>
      interval_cases k <;> simp
  have hz : (encode (.findTag tag sel)).extractLsb' 17 15 = 0#15 := by
    apply BitVec.eq_of_getLsbD_eq; intro k hk
    cases sel <;> simp only [encode, BitVec.getLsbD_extractLsb', hk, decide_true, Bool.true_and] <;>
      interval_cases k <;> simp
  have hl : (encode (.findTag tag sel)).extractLsb' 8 8 = tag := by
    apply BitVec.eq_of_getLsbD_eq; intro k hk
    cases sel <;> simp only [encode, BitVec.getLsbD_extractLsb', hk, decide_true, Bool.true_and] <;>
      interval_cases k <;> simp
  have hs : Sel.ofBit ((encode (.findTag tag sel)).getLsbD 16) = sel := by cases sel <;> simp [encode, Sel.ofBit]
  have hd : decode (encode (.findTag tag sel)) = formatT (encode (.findTag tag sel)) .findTag := by simp [decode, hop]
  rw [hd, formatT, hz, hl, hs]
  rfl

theorem abort : Statement .abort := fun _ => rfl

end Sys2Proof.Laws.EncodeThenDecode
end

