-- ==== Sys2Proof/Laws/Memory.lean ====
section
/-! SUPPORT. The laws of the buffer memory: read after write, the canonical form is kept, and what each buffer operation
leaves alone (20_memory.md R64, R65). -/

namespace Sys2Proof.Machine

theorem memory_read_write_same (m : Memory) (a : Nat) (v : Byte) : (m.write a v).read a = some v := by
  induction m with
  | nil => simp [Memory.write, Memory.read]
  | cons c m ih =>
    obtain ⟨b, x⟩ := c
    simp only [Memory.write]
    split
    · simp [Memory.read]
    · split
      · simp [Memory.read]
      · simp [Memory.read, *]

theorem memory_read_write_ne (m : Memory) (a a' : Nat) (v : Byte) (h : a' ≠ a) :
    (m.write a v).read a' = m.read a' := by
  induction m with
  | nil => simp [Memory.write, Memory.read, h]
  | cons c m ih =>
    obtain ⟨b, x⟩ := c
    simp only [Memory.write]
    split
    · simp [Memory.read, h]
    · split
      · subst_vars; simp [Memory.read, h]
      · simp [Memory.read, ih]

theorem memory_mem_write (m : Memory) (a : Nat) (v : Byte) (c : Host.Cell) (h : c ∈ m.write a v) :
    c = (a, v) ∨ c ∈ m := by
  induction m with
  | nil => simpa [Memory.write] using h
  | cons d m ih =>
    obtain ⟨b, x⟩ := d
    simp only [Memory.write] at h
    split at h
    · simpa using h
    · split at h
      · simp only [List.mem_cons] at h ⊢; tauto
      · simp only [List.mem_cons] at h ⊢
        rcases h with h | h
        · exact .inr (.inl h)
        · rcases ih h with h | h <;> simp [h]

/-- A write keeps the canonical form. -/
theorem memory_write_wf (m : Memory) (a : Nat) (v : Byte) (h : m.wf) : (m.write a v).wf := by
  induction m with
  | nil => simp [Memory.write, Memory.wf]
  | cons c m ih =>
    obtain ⟨b, x⟩ := c
    simp only [Memory.wf, List.pairwise_cons] at h
    simp only [Memory.write]
    split
    · rename_i hab
      simp only [Memory.wf, List.pairwise_cons, List.mem_cons]
      refine ⟨?_, h.1, h.2⟩
      rintro p (rfl | hp)
      · exact hab
      · exact Nat.lt_trans hab (h.1 p hp)
    · split
      · subst_vars
        simpa only [Memory.wf, List.pairwise_cons] using h
      · simp only [Memory.wf, List.pairwise_cons]
        refine ⟨fun p hp => ?_, ih h.2⟩
        rcases memory_mem_write m a v p hp with rfl | hp
        · show b < a; omega
        · exact h.1 p hp

/-- The reset state's memory is canonical. -/
theorem reset_mem_wf : State.reset.mem.wf := List.Pairwise.nil

@[simp] theorem bufWrite_txbufCap (s : State) (sel : Sel) (i : Nat) (v : Byte) :
    (bufWrite s sel i v).txbufCap = s.txbufCap := by
  unfold bufWrite; split <;> rfl
@[simp] theorem bufWrite_rxbufCap (s : State) (sel : Sel) (i : Nat) (v : Byte) :
    (bufWrite s sel i v).rxbufCap = s.rxbufCap := by
  unfold bufWrite; split <;> rfl
@[simp] theorem bufWrite_ie (s : State) (sel : Sel) (i : Nat) (v : Byte) :
    (bufWrite s sel i v).ie = s.ie := by
  unfold bufWrite; split <;> rfl
@[simp] theorem bufWrite_marker (s : State) (sel : Sel) (i : Nat) (v : Byte) :
    (bufWrite s sel i v).marker = s.marker := by
  unfold bufWrite; split <;> rfl
@[simp] theorem bufWrite_busy (s : State) (sel : Sel) (i : Nat) (v : Byte) :
    (bufWrite s sel i v).busy = s.busy := by
  unfold bufWrite; split <;> rfl
@[simp] theorem bufWrite_done (s : State) (sel : Sel) (i : Nat) (v : Byte) :
    (bufWrite s sel i v).done = s.done := by
  unfold bufWrite; split <;> rfl
@[simp] theorem bufWrite_isAck (s : State) (sel : Sel) (i : Nat) (v : Byte) :
    (bufWrite s sel i v).isAck = s.isAck := by
  unfold bufWrite; split <;> rfl
@[simp] theorem bufWrite_bwe (s : State) (sel : Sel) (i : Nat) (v : Byte) :
    (bufWrite s sel i v).bwe = s.bwe := by
  unfold bufWrite; split <;> rfl
@[simp] theorem bufWrite_sync (s : State) (sel : Sel) (i : Nat) (v : Byte) :
    (bufWrite s sel i v).sync = s.sync := by
  unfold bufWrite; split <;> rfl
@[simp] theorem bufWrite_err (s : State) (sel : Sel) (i : Nat) (v : Byte) :
    (bufWrite s sel i v).err = s.err := by
  unfold bufWrite; split <;> rfl
@[simp] theorem bufWrite_phase (s : State) (sel : Sel) (i : Nat) (v : Byte) :
    (bufWrite s sel i v).phase = s.phase := by
  unfold bufWrite; split <;> rfl
@[simp] theorem bufWrite_op (s : State) (sel : Sel) (i : Nat) (v : Byte) :
    (bufWrite s sel i v).op = s.op := by
  unfold bufWrite; split <;> rfl
@[simp] theorem bufWrite_arg (s : State) (sel : Sel) (i : Nat) (v : Byte) :
    (bufWrite s sel i v).arg = s.arg := by
  unfold bufWrite; split <;> rfl
@[simp] theorem bufWrite_pendErr (s : State) (sel : Sel) (i : Nat) (v : Byte) :
    (bufWrite s sel i v).pendErr = s.pendErr := by
  unfold bufWrite; split <;> rfl
@[simp] theorem bufWrite_deadline (s : State) (sel : Sel) (i : Nat) (v : Byte) :
    (bufWrite s sel i v).deadline = s.deadline := by
  unfold bufWrite; split <;> rfl
@[simp] theorem bufWrite_elapsed (s : State) (sel : Sel) (i : Nat) (v : Byte) :
    (bufWrite s sel i v).elapsed = s.elapsed := by
  unfold bufWrite; split <;> rfl
@[simp] theorem bufWrite_txLen (s : State) (sel : Sel) (i : Nat) (v : Byte) :
    (bufWrite s sel i v).txLen = s.txLen := by
  unfold bufWrite; split <;> rfl
@[simp] theorem bufWrite_txCnt (s : State) (sel : Sel) (i : Nat) (v : Byte) :
    (bufWrite s sel i v).txCnt = s.txCnt := by
  unfold bufWrite; split <;> rfl
@[simp] theorem bufWrite_rxLen (s : State) (sel : Sel) (i : Nat) (v : Byte) :
    (bufWrite s sel i v).rxLen = s.rxLen := by
  unfold bufWrite; split <;> rfl
@[simp] theorem bufWrite_rxCnt (s : State) (sel : Sel) (i : Nat) (v : Byte) :
    (bufWrite s sel i v).rxCnt = s.rxCnt := by
  unfold bufWrite; split <;> rfl
@[simp] theorem bufWrite_lcsRx (s : State) (sel : Sel) (i : Nat) (v : Byte) :
    (bufWrite s sel i v).lcsRx = s.lcsRx := by
  unfold bufWrite; split <;> rfl
@[simp] theorem bufWrite_dcsRx (s : State) (sel : Sel) (i : Nat) (v : Byte) :
    (bufWrite s sel i v).dcsRx = s.dcsRx := by
  unfold bufWrite; split <;> rfl
@[simp] theorem bufWrite_postRx (s : State) (sel : Sel) (i : Nat) (v : Byte) :
    (bufWrite s sel i v).postRx = s.postRx := by
  unfold bufWrite; split <;> rfl
@[simp] theorem bufWrite_dcsCalc (s : State) (sel : Sel) (i : Nat) (v : Byte) :
    (bufWrite s sel i v).dcsCalc = s.dcsCalc := by
  unfold bufWrite; split <;> rfl
@[simp] theorem bufWrite_rxTotal (s : State) (sel : Sel) (i : Nat) (v : Byte) :
    (bufWrite s sel i v).rxTotal = s.rxTotal := by
  unfold bufWrite; split <;> rfl
@[simp] theorem bufWrite_winBase (s : State) (sel : Sel) (i : Nat) (v : Byte) :
    (bufWrite s sel i v).winBase = s.winBase := by
  unfold bufWrite; split <;> rfl
@[simp] theorem bufWrite_winLen (s : State) (sel : Sel) (i : Nat) (v : Byte) :
    (bufWrite s sel i v).winLen = s.winLen := by
  unfold bufWrite; split <;> rfl
@[simp] theorem bufWrite_res (s : State) (sel : Sel) (i : Nat) (v : Byte) :
    (bufWrite s sel i v).res = s.res := by
  unfold bufWrite; split <;> rfl
@[simp] theorem bufWrite_tlvOff (s : State) (sel : Sel) (i : Nat) (v : Byte) :
    (bufWrite s sel i v).tlvOff = s.tlvOff := by
  unfold bufWrite; split <;> rfl
@[simp] theorem bufWrite_tlvLen (s : State) (sel : Sel) (i : Nat) (v : Byte) :
    (bufWrite s sel i v).tlvLen = s.tlvLen := by
  unfold bufWrite; split <;> rfl
@[simp] theorem bufWrite_tlvFound (s : State) (sel : Sel) (i : Nat) (v : Byte) :
    (bufWrite s sel i v).tlvFound = s.tlvFound := by
  unfold bufWrite; split <;> rfl
@[simp] theorem bufWrite_epoch (s : State) (sel : Sel) (i : Nat) (v : Byte) :
    (bufWrite s sel i v).epoch = s.epoch := by
  unfold bufWrite; split <;> rfl
@[simp] theorem bufWrite_latLeft (s : State) (sel : Sel) (i : Nat) (v : Byte) :
    (bufWrite s sel i v).latLeft = s.latLeft := by
  unfold bufWrite; split <;> rfl
@[simp] theorem bufWrite_latDraws (s : State) (sel : Sel) (i : Nat) (v : Byte) :
    (bufWrite s sel i v).latDraws = s.latDraws := by
  unfold bufWrite; split <;> rfl
@[simp] theorem bufWrite_inputs (s : State) (sel : Sel) (i : Nat) (v : Byte) :
    (bufWrite s sel i v).inputs = s.inputs := by
  unfold bufWrite; split <;> rfl
@[simp] theorem bufWrite_txSent (s : State) (sel : Sel) (i : Nat) (v : Byte) :
    (bufWrite s sel i v).txSent = s.txSent := by
  unfold bufWrite; split <;> rfl
@[simp] theorem bufWrite_hostReads (s : State) (sel : Sel) (i : Nat) (v : Byte) :
    (bufWrite s sel i v).hostReads = s.hostReads := by
  unfold bufWrite; split <;> rfl

theorem bufWrite_mem_wf (s : State) (sel : Sel) (i : Nat) (v : Byte) (h : s.mem.wf) : (bufWrite s sel i v).mem.wf := by
  unfold bufWrite; split
  · exact memory_write_wf _ _ _ h
  · exact h

@[simp] theorem cap_bufWrite (s : State) (sel sel' : Sel) (i : Nat) (v : Byte) :
    cap (bufWrite s sel i v) sel' = cap s sel' := by cases sel' <;> simp [cap]

theorem cap_lt (s : State) (sel : Sel) : cap s sel < 65536 := by
  cases sel <;> simp only [cap] <;> omega

/-- A byte that exists reads back what was written to it. -/
theorem bufRead_bufWrite_same (s : State) (sel : Sel) (i : Nat) (v : Byte) (h : i < cap s sel) :
    bufRead (bufWrite s sel i v) sel i = v := by
  have hm : (bufWrite s sel i v).mem = s.mem.write (bufferBase sel + i) v := by simp [bufWrite, h]
  simp [bufRead, h, hm, memory_read_write_same]

/-- A write to one byte of a buffer leaves every other byte of both buffers alone. -/
theorem bufRead_bufWrite_ne (s : State) (sel sel' : Sel) (i j : Nat) (v : Byte) (h : sel' ≠ sel ∨ j ≠ i) :
    bufRead (bufWrite s sel i v) sel' j = bufRead s sel' j := by
  unfold bufRead
  rw [cap_bufWrite]
  split
  · rename_i hj
    unfold bufWrite
    split
    · rename_i hi
      have hne : bufferBase sel' + j ≠ bufferBase sel + i := by
        have hc := cap_lt s sel
        have hc' := cap_lt s sel'
        cases sel <;> cases sel' <;> simp_all [bufferBase] <;> omega
      simp [memory_read_write_ne _ _ _ _ hne]
    · rfl
  · rfl

/-- A buffer byte depends on the capacities, the memory and the epoch alone. -/
theorem bufRead_congr (s t : State) (sel : Sel) (i : Nat) (h1 : t.txbufCap = s.txbufCap) (h2 : t.rxbufCap = s.rxbufCap)
    (h3 : t.mem = s.mem) (h4 : t.epoch = s.epoch) : bufRead t sel i = bufRead s sel i := by
  have hc : cap t sel = cap s sel := by cases sel <;> simp [cap, h1, h2]
  unfold bufRead
  rw [hc, h3, h4]

theorem bufBytes_congr (s t : State) (sel : Sel) (base n : Nat)
    (h : ∀ k, k < n → bufRead t sel (base + k) = bufRead s sel (base + k)) : bufBytes t sel base n = bufBytes s sel base n := by
  unfold bufBytes
  exact List.map_congr_left fun k hk => h k (List.mem_range.mp hk)

@[simp] theorem bufBytes_length (s : State) (sel : Sel) (base n : Nat) : (bufBytes s sel base n).length = n := by
  simp [bufBytes]

theorem bufBytes_succ (s : State) (sel : Sel) (base n : Nat) :
    bufBytes s sel base (n + 1) = bufBytes s sel base n ++ [bufRead s sel (base + n)] := by
  simp [bufBytes, List.range_succ]

/-- A buffer write that falls outside a window leaves the window's bytes alone. -/
theorem bufBytes_bufWrite_past (s : State) (sel : Sel) (base n i : Nat) (v : Byte) (h : base + n ≤ i) :
    bufBytes (bufWrite s sel i v) sel base n = bufBytes s sel base n :=
  bufBytes_congr _ _ _ _ _ fun k hk => bufRead_bufWrite_ne _ _ _ _ _ _ (.inr (by omega))

@[simp] theorem writeBufWord_txbufCap (s : State) (sel : Sel) (i : Nat) (v : Word) :
    (writeBufWord s sel i v).txbufCap = s.txbufCap := by
  simp [writeBufWord]
@[simp] theorem writeBufWord_rxbufCap (s : State) (sel : Sel) (i : Nat) (v : Word) :
    (writeBufWord s sel i v).rxbufCap = s.rxbufCap := by
  simp [writeBufWord]
@[simp] theorem writeBufWord_ie (s : State) (sel : Sel) (i : Nat) (v : Word) :
    (writeBufWord s sel i v).ie = s.ie := by
  simp [writeBufWord]
@[simp] theorem writeBufWord_marker (s : State) (sel : Sel) (i : Nat) (v : Word) :
    (writeBufWord s sel i v).marker = s.marker := by
  simp [writeBufWord]
@[simp] theorem writeBufWord_busy (s : State) (sel : Sel) (i : Nat) (v : Word) :
    (writeBufWord s sel i v).busy = s.busy := by
  simp [writeBufWord]
@[simp] theorem writeBufWord_done (s : State) (sel : Sel) (i : Nat) (v : Word) :
    (writeBufWord s sel i v).done = s.done := by
  simp [writeBufWord]
@[simp] theorem writeBufWord_isAck (s : State) (sel : Sel) (i : Nat) (v : Word) :
    (writeBufWord s sel i v).isAck = s.isAck := by
  simp [writeBufWord]
@[simp] theorem writeBufWord_bwe (s : State) (sel : Sel) (i : Nat) (v : Word) :
    (writeBufWord s sel i v).bwe = s.bwe := by
  simp [writeBufWord]
@[simp] theorem writeBufWord_sync (s : State) (sel : Sel) (i : Nat) (v : Word) :
    (writeBufWord s sel i v).sync = s.sync := by
  simp [writeBufWord]
@[simp] theorem writeBufWord_err (s : State) (sel : Sel) (i : Nat) (v : Word) :
    (writeBufWord s sel i v).err = s.err := by
  simp [writeBufWord]
@[simp] theorem writeBufWord_phase (s : State) (sel : Sel) (i : Nat) (v : Word) :
    (writeBufWord s sel i v).phase = s.phase := by
  simp [writeBufWord]
@[simp] theorem writeBufWord_op (s : State) (sel : Sel) (i : Nat) (v : Word) :
    (writeBufWord s sel i v).op = s.op := by
  simp [writeBufWord]
@[simp] theorem writeBufWord_arg (s : State) (sel : Sel) (i : Nat) (v : Word) :
    (writeBufWord s sel i v).arg = s.arg := by
  simp [writeBufWord]
@[simp] theorem writeBufWord_pendErr (s : State) (sel : Sel) (i : Nat) (v : Word) :
    (writeBufWord s sel i v).pendErr = s.pendErr := by
  simp [writeBufWord]
@[simp] theorem writeBufWord_deadline (s : State) (sel : Sel) (i : Nat) (v : Word) :
    (writeBufWord s sel i v).deadline = s.deadline := by
  simp [writeBufWord]
@[simp] theorem writeBufWord_elapsed (s : State) (sel : Sel) (i : Nat) (v : Word) :
    (writeBufWord s sel i v).elapsed = s.elapsed := by
  simp [writeBufWord]
@[simp] theorem writeBufWord_txLen (s : State) (sel : Sel) (i : Nat) (v : Word) :
    (writeBufWord s sel i v).txLen = s.txLen := by
  simp [writeBufWord]
@[simp] theorem writeBufWord_txCnt (s : State) (sel : Sel) (i : Nat) (v : Word) :
    (writeBufWord s sel i v).txCnt = s.txCnt := by
  simp [writeBufWord]
@[simp] theorem writeBufWord_rxLen (s : State) (sel : Sel) (i : Nat) (v : Word) :
    (writeBufWord s sel i v).rxLen = s.rxLen := by
  simp [writeBufWord]
@[simp] theorem writeBufWord_rxCnt (s : State) (sel : Sel) (i : Nat) (v : Word) :
    (writeBufWord s sel i v).rxCnt = s.rxCnt := by
  simp [writeBufWord]
@[simp] theorem writeBufWord_lcsRx (s : State) (sel : Sel) (i : Nat) (v : Word) :
    (writeBufWord s sel i v).lcsRx = s.lcsRx := by
  simp [writeBufWord]
@[simp] theorem writeBufWord_dcsRx (s : State) (sel : Sel) (i : Nat) (v : Word) :
    (writeBufWord s sel i v).dcsRx = s.dcsRx := by
  simp [writeBufWord]
@[simp] theorem writeBufWord_postRx (s : State) (sel : Sel) (i : Nat) (v : Word) :
    (writeBufWord s sel i v).postRx = s.postRx := by
  simp [writeBufWord]
@[simp] theorem writeBufWord_dcsCalc (s : State) (sel : Sel) (i : Nat) (v : Word) :
    (writeBufWord s sel i v).dcsCalc = s.dcsCalc := by
  simp [writeBufWord]
@[simp] theorem writeBufWord_rxTotal (s : State) (sel : Sel) (i : Nat) (v : Word) :
    (writeBufWord s sel i v).rxTotal = s.rxTotal := by
  simp [writeBufWord]
@[simp] theorem writeBufWord_winBase (s : State) (sel : Sel) (i : Nat) (v : Word) :
    (writeBufWord s sel i v).winBase = s.winBase := by
  simp [writeBufWord]
@[simp] theorem writeBufWord_winLen (s : State) (sel : Sel) (i : Nat) (v : Word) :
    (writeBufWord s sel i v).winLen = s.winLen := by
  simp [writeBufWord]
@[simp] theorem writeBufWord_res (s : State) (sel : Sel) (i : Nat) (v : Word) :
    (writeBufWord s sel i v).res = s.res := by
  simp [writeBufWord]
@[simp] theorem writeBufWord_tlvOff (s : State) (sel : Sel) (i : Nat) (v : Word) :
    (writeBufWord s sel i v).tlvOff = s.tlvOff := by
  simp [writeBufWord]
@[simp] theorem writeBufWord_tlvLen (s : State) (sel : Sel) (i : Nat) (v : Word) :
    (writeBufWord s sel i v).tlvLen = s.tlvLen := by
  simp [writeBufWord]
@[simp] theorem writeBufWord_tlvFound (s : State) (sel : Sel) (i : Nat) (v : Word) :
    (writeBufWord s sel i v).tlvFound = s.tlvFound := by
  simp [writeBufWord]
@[simp] theorem writeBufWord_epoch (s : State) (sel : Sel) (i : Nat) (v : Word) :
    (writeBufWord s sel i v).epoch = s.epoch := by
  simp [writeBufWord]
@[simp] theorem writeBufWord_latLeft (s : State) (sel : Sel) (i : Nat) (v : Word) :
    (writeBufWord s sel i v).latLeft = s.latLeft := by
  simp [writeBufWord]
@[simp] theorem writeBufWord_latDraws (s : State) (sel : Sel) (i : Nat) (v : Word) :
    (writeBufWord s sel i v).latDraws = s.latDraws := by
  simp [writeBufWord]
@[simp] theorem writeBufWord_inputs (s : State) (sel : Sel) (i : Nat) (v : Word) :
    (writeBufWord s sel i v).inputs = s.inputs := by
  simp [writeBufWord]
@[simp] theorem writeBufWord_txSent (s : State) (sel : Sel) (i : Nat) (v : Word) :
    (writeBufWord s sel i v).txSent = s.txSent := by
  simp [writeBufWord]
@[simp] theorem writeBufWord_hostReads (s : State) (sel : Sel) (i : Nat) (v : Word) :
    (writeBufWord s sel i v).hostReads = s.hostReads := by
  simp [writeBufWord]

theorem writeBufWord_mem_wf (s : State) (sel : Sel) (i : Nat) (v : Word) (h : s.mem.wf) :
    (writeBufWord s sel i v).mem.wf := by
  unfold writeBufWord
  exact bufWrite_mem_wf _ _ _ _ (bufWrite_mem_wf _ _ _ _ (bufWrite_mem_wf _ _ _ _ (bufWrite_mem_wf _ _ _ _ h)))

end Sys2Proof.Machine
end

