-- ==== Sys2Proof/Laws/Ops.lean ====
section
/-! SUPPORT. One lemma per shared operation that says once everything it can do; later proofs cite these and do not
unfold the operation. -/

namespace Sys2Proof.Machine

/-! Shared operations of a command's edges. -/

theorem unlessPending_ok (body : State → State) (s : State) (h : s.pendErr = .ok) : unlessPending body s = body s := by
  simp [unlessPending, h]

theorem unlessPending_err (body : State → State) (s : State) (h : s.pendErr ≠ .ok) :
    unlessPending body s = finish s.pendErr s := by simp [unlessPending, h]

theorem commandEdge_busy (i : Instr) (body : State → State) (s : State) (h : s.busy = true) :
    commandEdge i body s = unlessPending body s := by simp [commandEdge, h]

theorem commandEdge_idle (i : Instr) (body : State → State) (s : State) (h : s.busy = false) :
    commandEdge i body s = accept (encode i) s := by simp [commandEdge, h]

theorem atLatency_last (body : State → State) (s : State) (h : s.latLeft ≤ 1) : atLatency body s = body s := by
  simp [atLatency, h]

theorem atLatency_wait (body : State → State) (s : State) (h : 1 < s.latLeft) :
    atLatency body s = { s with latLeft := s.latLeft - 1 } := by simp [atLatency, Nat.not_le.mpr h]

/-- A static check has three results (44_control.md R202). -/
theorem staticCheck_cases (s : State) (w : Word) :
    staticCheck s w = .ok ∨ staticCheck s w = .range ∨ staticCheck s w = .illegal := by
  unfold staticCheck
  cases decode w with
  | error _ => simp
  | ok i => cases i <;> simp only [rangeCheck] <;> (try split) <;> simp

/-- Everything an acceptance can do (44_control.md R200). -/
theorem accept_cases (w : Word) (s : State) :
    (staticCheck s w ≠ .ok ∧ accept w s = latch s w) ∨
    (staticCheck s w = .ok ∧ opcodeOf w = 0x05#8 ∧ accept w s = acceptReadFrame (latch s w)) ∨
    (staticCheck s w = .ok ∧ opcodeOf w = 0x06#8 ∧ accept w s = { latch s w with txCnt := 0#17 }) ∨
    (staticCheck s w = .ok ∧ (opcodeOf w = 0x02#8 ∨ opcodeOf w = 0x07#8) ∧ accept w s = drawLatency (latch s w)) ∨
    (staticCheck s w = .ok ∧ opcodeOf w ≠ 0x05#8 ∧ opcodeOf w ≠ 0x06#8 ∧ opcodeOf w ≠ 0x02#8 ∧ opcodeOf w ≠ 0x07#8 ∧
      accept w s = latch s w) := by
  unfold accept acceptanceWrites
  by_cases h : staticCheck s w = .ok
  · rw [if_pos h]
    by_cases h5 : opcodeOf w = 0x05#8
    · exact .inr (.inl ⟨h, h5, by rw [if_pos h5]⟩)
    · by_cases h6 : opcodeOf w = 0x06#8
      · exact .inr (.inr (.inl ⟨h, h6, by rw [if_neg h5, if_pos h6]⟩))
      · by_cases hl : opcodeOf w = 0x02#8 ∨ opcodeOf w = 0x07#8
        · exact .inr (.inr (.inr (.inl ⟨h, hl, by rw [if_neg h5, if_neg h6, if_pos hl]⟩)))
        · refine .inr (.inr (.inr (.inr ⟨h, h5, h6, fun e => hl (.inl e), fun e => hl (.inr e), ?_⟩)))
          rw [if_neg h5, if_neg h6, if_neg hl]
  · exact .inl ⟨h, by rw [if_neg h]⟩

/-- The latency is one of 1 to n + 1 (00_scope.md R7). -/
theorem latency_range (n : Nat) (l : List Nat) : 1 ≤ latency n l ∧ latency n l ≤ n + 1 := by
  cases l with
  | nil => simp [latency]
  | cons d _ =>
    have : d % (n + 1) < n + 1 := Nat.mod_lt d (Nat.succ_pos n)
    simp only [latency]
    omega

/-! Checksums. -/

@[simp] theorem dcs_nil : dcs [] = 0#8 := by decide

/-- One more byte (41_frame_reader.md R137). -/
theorem dcs_concat (bs : List Byte) (b : Byte) : dcs (bs ++ [b]) = dcs bs - b := by
  apply BitVec.eq_of_toNat_eq
  simp only [dcs, List.map_append, List.map_cons, List.map_nil, List.sum_append, List.sum_cons, List.sum_nil,
    BitVec.toNat_sub, BitVec.toNat_ofNat]
  have := b.isLt
  omega

/-! READ_FRAME's edge. -/

theorem readFrameBody_timeout (s : State) (h : s.elapsed.ult s.deadline = false) :
    readFrameBody s = finish (timeoutCode s.phase) s := by simp [readFrameBody, h]

theorem readFrameBody_byte (s : State) (h : s.elapsed.ult s.deadline = true) (hv : s.input.rxValid = true) :
    readFrameBody s = countTick s.input.tick (takeByte s.input.rxData s) := by simp [readFrameBody, h, hv]

theorem readFrameBody_stall (s : State) (h : s.elapsed.ult s.deadline = true) (hv : s.input.rxValid = false) :
    readFrameBody s = countTick s.input.tick s := by simp [readFrameBody, h, hv]

theorem countTick_cases (tick : Bool) (s : State) :
    (tick = true ∧ s.busy = true ∧ countTick tick s = { s with elapsed := s.elapsed + 1#32 }) ∨
    ((tick = false ∨ s.busy = false) ∧ countTick tick s = s) := by
  cases tick <;> cases h : s.busy <;> simp [countTick, h]

/-! The host's transaction and the end of an edge. -/

/-- While BUSY = 1 before the edge, a host write changes no field but CFG.IE, DONE and BWE; it never sets DONE, and keeps
a DONE that the engine set at this edge (20_memory.md R77, 60_exceptions.md R234). -/
theorem hostWrite_busy (completed : Bool) (a : Addr) (v : Word) (s : State) :
    ∃ ie done bwe, hostWrite true completed a v s = { s with ie := ie, done := done, bwe := bwe } ∧
      (done = true → s.done = true) ∧ (completed = true → done = s.done) := by
  unfold hostWrite
  cases locate a with
  | unmapped => exact ⟨s.ie, s.done, s.bwe, rfl, id, fun _ => rfl⟩
  | buf sel i => exact ⟨s.ie, s.done, true, rfl, id, fun _ => rfl⟩
  | reg r =>
    cases r <;>
      first
      | exact ⟨s.ie, s.done, s.bwe, rfl, id, fun _ => rfl⟩
      | exact ⟨s.ie, s.done, true, rfl, id, fun _ => rfl⟩
      | exact ⟨v.getLsbD 0, s.done, s.bwe, rfl, id, fun _ => rfl⟩
      | exact ⟨s.ie, _, _, rfl, fun h => by simp_all, fun h => by simp [h]⟩
      | (simp only [writeReg, Bool.true_and]
         split
         · exact ⟨s.ie, s.done, true, rfl, id, fun _ => rfl⟩
         · exact ⟨s.ie, s.done, s.bwe, rfl, id, fun _ => rfl⟩)

/-- The same of the host's whole transaction. -/
theorem hostEffect_busy (pre post : State) (h : pre.busy = true) :
    ∃ ie done bwe, hostEffect pre post = { post with ie := ie, done := done, bwe := bwe } ∧
      (done = true → post.done = true) ∧ (post.busy = false → done = post.done) := by
  unfold hostEffect
  cases pre.input.host with
  | none => exact ⟨post.ie, post.done, post.bwe, rfl, id, fun _ => rfl⟩
  | read a => exact ⟨post.ie, post.done, post.bwe, rfl, id, fun _ => rfl⟩
  | write a v =>
    simp only [h]
    obtain ⟨ie, d, bwe, he, h1, h2⟩ := hostWrite_busy (true && !post.busy) a v post
    exact ⟨ie, d, bwe, he, h1, fun hb => h2 (by simp [hb])⟩

/-- While BUSY = 0 before the edge, a host write changes one register, or buffer bytes, or nothing (10_state.md R51). -/
theorem hostWrite_idle (completed : Bool) (a : Addr) (v : Word) (s : State) :
    (∃ ie marker done bwe deadline txLen winBase winLen, hostWrite false completed a v s =
      { s with
        ie := ie, marker := marker, done := done, bwe := bwe, deadline := deadline, txLen := txLen, winBase := winBase,
        winLen := winLen } ∧ (done = true → s.done = true)) ∨
    ∃ sel i, hostWrite false completed a v s = writeBufWord s sel i v := by
  unfold hostWrite
  cases locate a with
  | unmapped => exact .inl ⟨_, _, _, _, _, _, _, _, rfl, id⟩
  | buf sel i => exact .inr ⟨sel, i, rfl⟩
  | reg r =>
    left
    cases r <;>
      first
      | exact ⟨_, _, _, _, _, _, _, _, rfl, id⟩
      | exact ⟨_, _, _, _, _, _, _, _, rfl, fun h => by simp_all⟩

/-- A transaction reaches the word that holds its byte address (20_memory.md R61). -/
theorem alignedAddr_toNat (a : Addr) : (alignedAddr a).toNat = 4 * (a.toNat / 4) := by
  have h : alignedAddr a = (a >>> 2) <<< 2 := by
    apply BitVec.eq_of_getLsbD_eq
    intro j hj
    unfold alignedAddr
    interval_cases j <;> simp
  rw [h, BitVec.toNat_shiftLeft, BitVec.toNat_ushiftRight, Nat.shiftRight_eq_div_pow, Nat.shiftLeft_eq]
  have := a.isLt
  omega

/-! Which instruction an edge runs. -/

theorem getLsbD_latchedWord (s : State) (k : Nat) :
    (latchedWord s).getLsbD k = if k < 8 then s.op.getLsbD k else s.arg.getLsbD (k - 8) :=
  BitVec.getLsbD_append

/-- OPC of the latched word is OP. -/
theorem opcodeOf_latchedWord (s : State) : opcodeOf (latchedWord s) = s.op := by
  apply BitVec.eq_of_getLsbD_eq
  intro k hk
  simp [opcodeOf, getLsbD_latchedWord, hk]

/-- Every other field of the latched word is the field of ARG eight bits lower. -/
theorem extractLsb'_latchedWord (s : State) (lo n : Nat) :
    (latchedWord s).extractLsb' (8 + lo) n = s.arg.extractLsb' lo n := by
  apply BitVec.eq_of_getLsbD_eq
  intro k hk
  simp only [BitVec.getLsbD_extractLsb', getLsbD_latchedWord, hk, decide_true, Bool.true_and]
  have h1 : ¬ 8 + lo + k < 8 := by omega
  have h2 : 8 + lo + k - 8 = lo + k := by omega
  simp [h1, h2]

/-- The executing command is the one the latched word decodes to. -/
theorem executing_of_decode (s : State) (i : Instr) (h : decode (latchedWord s) = .ok i) (hi : i ≠ .abort) :
    executing s = some i := by
  have h16 := extractLsb'_latchedWord s 0 16
  have h8 := extractLsb'_latchedWord s 0 8
  have hb : (latchedWord s).getLsbD 16 = s.arg.getLsbD 8 := getLsbD_latchedWord s 16
  unfold decode at h
  unfold executing
  rw [opcodeOf_latchedWord] at h
  simp only [formatN, formatL, formatB, formatS, formatT, ifReservedZero, h16, h8, hb] at h
  repeat' split at h
  all_goals simp_all

/-- Every command's execution edge is the engine's step (44_control.md R208). -/
theorem exec_eq_engineStep (s : State) (i : Instr) (hb : s.busy = true) (he : executing s = some i) (hi : i ≠ .abort) :
    exec i s = .next (engineStep s) := by
  unfold engineStep
  rw [he]
  cases i <;>
    simp_all [exec, execNop, execLcsGen, execDcsGen, execPreStep, execPreClr, execReadFrame, execWriteFrame, execFindTag,
      commandEdge]

theorem executing_ne_abort (s : State) : executing s ≠ some .abort := by
  unfold executing
  repeat' split
  all_goals simp

/-- Every command but ABORT is accepted at an idle edge (44_control.md R200). -/
theorem exec_idle (s : State) (i : Instr) (hb : s.busy = false) (hi : i ≠ .abort) :
    exec i s = .next (accept (encode i) s) := by
  cases i <;>
    simp_all [exec, execNop, execLcsGen, execDcsGen, execPreStep, execPreClr, execReadFrame, execWriteFrame, execFindTag,
      commandEdge]

end Sys2Proof.Machine
end

