-- ==== Sys2Proof/Laws/Step.lean ====
section
/-! SUPPORT. What one step can do, said once (60_exceptions.md R234); invariants are derived from this. -/

namespace Sys2Proof.Machine

/-- The state after the edge's command, or after its absence, before the host's transaction is applied. -/
inductive EdgeResult (s : State) : State → Prop
  | aborted (busy : s.busy = true) (written : cmdWord s.input.host = some abortWord) : EdgeResult s (abortEdge s)
  | executed (busy : s.busy = true) (notAborted : cmdWord s.input.host ≠ some abortWord) : EdgeResult s (engineStep s)
  | noCommand (idle : s.busy = false) (none : cmdWord s.input.host = none) : EdgeResult s s
  | idleAbort (idle : s.busy = false) (w : Word) (written : cmdWord s.input.host = some w)
      (dec : decode w = .ok .abort) : EdgeResult s s
  | accepted (idle : s.busy = false) (w : Word) (i : Instr) (written : cmdWord s.input.host = some w)
      (dec : decode w = .ok i) (ne : i ≠ .abort) : EdgeResult s (accept (encode i) s)
  | acceptedIllegal (idle : s.busy = false) (w : Word) (e : Undefined) (written : cmdWord s.input.host = some w)
      (dec : decode w = .error e) : EdgeResult s (accept w s)

theorem engineStep_of_none (s : State) (h : executing s = none) : engineStep s = illegalEdge s := by
  simp [engineStep, h]

theorem step_reset (s : State) (h : s.input.rst = true) : step s = .next (resetEdge s (readWords s)) := by
  simp [step, h]

theorem step_of_fetch (s t : State) (i : Instr) (h : s.input.rst = false) (hf : fetch s = some i)
    (he : exec i s = .next t) : step s = .next (endEdge s t) := by
  simp [step, h, hf, he]

theorem step_of_no_fetch (s : State) (h : s.input.rst = false) (hf : fetch s = none) :
    step s = .next (endEdge s (withoutCommand s)) := by
  simp [step, h, hf]

/-- Everything an edge without reset can do. -/
theorem step_edge (s : State) (h : s.input.rst = false) :
    ∃ t, step s = .next (endEdge s t) ∧ EdgeResult s t := by
  cases hb : s.busy with
  | true =>
    by_cases hw : cmdWord s.input.host = some abortWord
    · exact ⟨_, step_of_fetch s _ .abort h (by simp [fetch, hb, hw]) (by simp [exec, execAbort, hb]),
        .aborted hb hw⟩
    · cases he : executing s with
      | none =>
        refine ⟨_, step_of_no_fetch s h (by simp [fetch, hb, hw, he]), ?_⟩
        have : withoutCommand s = engineStep s := by simp [withoutCommand, hb, engineStep_of_none s he]
        rw [this]
        exact .executed hb hw
      | some i =>
        have hi : i ≠ .abort := fun e => executing_ne_abort s (e ▸ he)
        exact ⟨_, step_of_fetch s _ i h (by simp [fetch, hb, hw, he]) (exec_eq_engineStep s i hb he hi), .executed hb hw⟩
  | false =>
    cases hw : cmdWord s.input.host with
    | none => exact ⟨s, by simpa [withoutCommand, hb, hw] using step_of_no_fetch s h (by simp [fetch, hb, hw]), .noCommand hb hw⟩
    | some w =>
      cases hd : decode w with
      | error e =>
        exact ⟨accept w s, by
          simpa [withoutCommand, hb, hw] using step_of_no_fetch s h (by simp [fetch, hb, hw, hd, Except.toOption]),
          .acceptedIllegal hb w e hw hd⟩
      | ok i =>
        by_cases hi : i = .abort
        · subst hi
          exact ⟨s, step_of_fetch s s .abort h (by simp [fetch, hb, hw, hd, Except.toOption]) (by simp [exec, execAbort, hb]),
            .idleAbort hb w hw hd⟩
        · exact ⟨_, step_of_fetch s _ i h (by simp [fetch, hb, hw, hd, Except.toOption]) (exec_idle s i hb hi),
            .accepted hb w i hw hd hi⟩

/-- Everything a step can do: if it answers `next s'`, the edge was a reset edge, or `s'` is the end of an edge whose
command did one of the cases of `EdgeResult`. -/
theorem step_cases (s s' : State) (h : step s = .next s') :
    (s.input.rst = true ∧ s' = resetEdge s (readWords s)) ∨
    (s.input.rst = false ∧ ∃ t, EdgeResult s t ∧ s' = endEdge s t) := by
  cases hr : s.input.rst with
  | true => rw [step_reset s hr] at h; injection h with h; exact .inl ⟨rfl, h.symm⟩
  | false =>
    obtain ⟨t, ht, hc⟩ := step_edge s hr
    rw [ht] at h
    injection h with h
    exact .inr ⟨rfl, t, hc, h.symm⟩

/-- At the end of an edge that began busy, everything but CFG.IE, DONE, BWE and the environment's data is as the command's
step left it (20_memory.md R77). -/
theorem endEdge_busy (pre post : State) (h : pre.busy = true) :
    ∃ ie done bwe reads, endEdge pre post =
      { post with ie := ie, done := done, bwe := bwe, inputs := pre.inputs.tail, hostReads := reads } ∧
      (done = true → post.done = true) ∧ (post.busy = false → done = post.done) := by
  obtain ⟨ie, d, bwe, he, h1, h2⟩ := hostEffect_busy pre post h
  exact ⟨ie, d, bwe, _, by simp only [endEdge, he]; rfl, h1, h2⟩

end Sys2Proof.Machine
end

