-- ==== Sys2Proof/Laws/Engine.lean ====
section
/-! SUPPORT. What the executing command's own step can do, and what it never changes; the encoder seen by acceptance. -/

namespace Sys2Proof.Machine

/-! Words that the encoder makes, at acceptance. -/

theorem decode_encode (i : Instr) : decode (encode i) = .ok i := by
  cases i with
  | nop => exact Laws.EncodeThenDecode.nop rfl
  | lcsGen l => exact Laws.EncodeThenDecode.lcsGen l rfl
  | dcsGen sel => exact Laws.EncodeThenDecode.dcsGen sel rfl
  | preStep b => exact Laws.EncodeThenDecode.preStep b rfl
  | preClr => exact Laws.EncodeThenDecode.preClr rfl
  | readFrame => exact Laws.EncodeThenDecode.readFrame rfl
  | writeFrame => exact Laws.EncodeThenDecode.writeFrame rfl
  | findTag tag sel => exact Laws.EncodeThenDecode.findTag tag sel rfl
  | abort => exact Laws.EncodeThenDecode.abort rfl

/-- A command's own word passes the decoder, so its static check is the range test alone (44_control.md R202). -/
theorem staticCheck_encode (s : State) (i : Instr) : staticCheck s (encode i) = rangeCheck s i := by
  simp [staticCheck, decode_encode]

theorem opcodeOf_encode_lcsGen (l : BitVec 16) : opcodeOf (encode (.lcsGen l)) = 0x01#8 := by
  apply BitVec.eq_of_getLsbD_eq; intro k hk
  simp only [opcodeOf, encode, BitVec.getLsbD_extractLsb', hk, decide_true, Bool.true_and]
  interval_cases k <;> simp

theorem opcodeOf_encode_dcsGen (sel : Sel) : opcodeOf (encode (.dcsGen sel)) = 0x02#8 := by cases sel <;> rfl

theorem opcodeOf_encode_preStep (b : Byte) : opcodeOf (encode (.preStep b)) = 0x03#8 := by
  apply BitVec.eq_of_getLsbD_eq; intro k hk
  simp only [opcodeOf, encode, BitVec.getLsbD_extractLsb', hk, decide_true, Bool.true_and]
  interval_cases k <;> simp

theorem opcodeOf_encode_findTag (tag : Byte) (sel : Sel) : opcodeOf (encode (.findTag tag sel)) = 0x07#8 := by
  apply BitVec.eq_of_getLsbD_eq; intro k hk
  cases sel <;> simp only [opcodeOf, encode, BitVec.getLsbD_extractLsb', hk, decide_true, Bool.true_and] <;>
    interval_cases k <;> simp

/-- The latched word is the accepted word (10_state.md R47). -/
theorem latchedWord_latch (s : State) (w : Word) : latchedWord (latch s w) = w := by
  apply BitVec.eq_of_getLsbD_eq
  intro k hk
  rw [getLsbD_latchedWord]
  simp only [latch_op, latch_arg]
  split
  · simp [opcodeOf, *]
  · have h1 : 8 + (k - 8) = k := by omega
    have h2 : k - 8 < 24 := by omega
    simp [argOf, h1, h2]

theorem bufWrite_mem (s : State) (sel : Sel) (i : Nat) (v : Byte) :
    (bufWrite s sel i v).mem = if i < cap s sel then s.mem.write (bufferBase sel + i) v else s.mem := by
  unfold bufWrite; split <;> rfl

/-! The executing command's step. -/

/-- Everything the executing command's step can do. -/
inductive EngineResult (s : State) : State → Prop
  | pending (p : s.pendErr ≠ .ok) : EngineResult s (finish s.pendErr s)
  | illegal (none : executing s = none) : EngineResult s (finish .illegal s)
  | nop (p : s.pendErr = .ok) (e : executing s = some .nop) : EngineResult s (finish .ok s)
  | lcsGen (len16 : BitVec 16) (p : s.pendErr = .ok) (e : executing s = some (.lcsGen len16)) :
      EngineResult s (lcsGenBody len16 s)
  | waits (sel : Sel) (p : s.pendErr = .ok) (e : executing s = some (.dcsGen sel) ∨ ∃ tag, executing s = some (.findTag tag sel))
      (l : 1 < s.latLeft) : EngineResult s { s with latLeft := s.latLeft - 1 }
  | dcsGen (sel : Sel) (p : s.pendErr = .ok) (e : executing s = some (.dcsGen sel)) (l : s.latLeft ≤ 1) :
      EngineResult s (dcsGenBody sel s)
  | preStep (byte : Byte) (p : s.pendErr = .ok) (e : executing s = some (.preStep byte)) :
      EngineResult s (preStepBody byte s)
  | preClr (p : s.pendErr = .ok) (e : executing s = some .preClr) : EngineResult s (preClrBody s)
  | readFrame (p : s.pendErr = .ok) (e : executing s = some .readFrame) : EngineResult s (readFrameBody s)
  | writeFrame (p : s.pendErr = .ok) (e : executing s = some .writeFrame) : EngineResult s (writeFrameBody s)
  | findTag (tag : Byte) (sel : Sel) (p : s.pendErr = .ok) (e : executing s = some (.findTag tag sel)) (l : s.latLeft ≤ 1) :
      EngineResult s (findTagBody tag sel s)

theorem engineStep_cases (s : State) : EngineResult s (engineStep s) := by
  cases he : executing s with
  | none => rw [engineStep_of_none s he]; exact .illegal he
  | some i =>
    by_cases hp : s.pendErr = .ok
    · unfold engineStep
      rw [he]
      cases i <;> simp only [unlessPending_ok _ _ hp]
      · exact .nop hp he
      · exact .lcsGen _ hp he
      · by_cases hl : s.latLeft ≤ 1
        · rw [atLatency_last _ _ hl]; exact .dcsGen _ hp he hl
        · rw [atLatency_wait _ _ (Nat.not_le.mp hl)]; exact .waits _ hp (.inl he) (Nat.not_le.mp hl)
      · exact .preStep _ hp he
      · exact .preClr hp he
      · exact .readFrame hp he
      · exact .writeFrame hp he
      · by_cases hl : s.latLeft ≤ 1
        · rw [atLatency_last _ _ hl]; exact .findTag _ _ hp he hl
        · rw [atLatency_wait _ _ (Nat.not_le.mp hl)]; exact .waits _ hp (.inr ⟨_, he⟩) (Nat.not_le.mp hl)
      · exact absurd he (executing_ne_abort s)
    · have : engineStep s = finish s.pendErr s := by
        unfold engineStep
        rw [he]
        cases i <;> simp only [unlessPending_err _ _ hp]
        exact absurd he (executing_ne_abort s)
      rw [this]
      exact .pending hp

/-- The registers that no command's step writes: the parameters, the configuration, the operand registers, the latched
command and the environment's data (20_memory.md R76). -/
structure Kept (s t : State) : Prop where
  txbufCap : t.txbufCap = s.txbufCap
  rxbufCap : t.rxbufCap = s.rxbufCap
  ie : t.ie = s.ie
  marker : t.marker = s.marker
  bwe : t.bwe = s.bwe
  op : t.op = s.op
  arg : t.arg = s.arg
  pendErr : t.pendErr = s.pendErr
  deadline : t.deadline = s.deadline
  txLen : t.txLen = s.txLen
  winBase : t.winBase = s.winBase
  winLen : t.winLen = s.winLen
  epoch : t.epoch = s.epoch
  latDraws : t.latDraws = s.latDraws
  inputs : t.inputs = s.inputs
  hostReads : t.hostReads = s.hostReads

theorem applyPhase_kept (b : Byte) (s : State) :
    Kept s (applyPhase b s) ∧ (applyPhase b s).elapsed = s.elapsed ∧ (applyPhase b s).rxTotal = s.rxTotal ∧
    ((applyPhase b s).busy = true → s.busy = true) ∧ (s.busy = true → (applyPhase b s).busy = false → (applyPhase b s).done = true) ∧
    (applyPhase b s).mem = if s.phase = .pay then (bufWrite s .rx s.rxCnt.toNat b).mem else s.mem := by
  unfold applyPhase
  split <;> rename_i hp <;>
    simp only [onSync, onLenH, onLenL, onLcs, onAckPost, onPay, onDcs, onPost, hp, reduceCtorEq, if_false, if_true] <;>
    (repeat' split) <;>
    exact ⟨by constructor <;> simp, by simp, by simp, by simp, by simp_all, by simp⟩

/-- The same of a byte taken, which is counted (41_frame_reader.md R127, R130). -/
theorem takeByte_kept (b : Byte) (s : State) :
    Kept s (takeByte b s) ∧ (takeByte b s).elapsed = s.elapsed ∧ (takeByte b s).rxTotal = satSucc s.rxTotal ∧
    ((takeByte b s).busy = true → s.busy = true) ∧ (s.busy = true → (takeByte b s).busy = false → (takeByte b s).done = true) ∧
    (takeByte b s).mem = if s.phase = .pay then (bufWrite s .rx s.rxCnt.toNat b).mem else s.mem := by
  obtain ⟨k, k2, k3, k4, k5, k6⟩ := applyPhase_kept b { s with rxTotal := satSucc s.rxTotal }
  rw [bufWrite_mem] at k6 ⊢
  exact ⟨⟨k.1, k.2, k.3, k.4, k.5, k.6, k.7, k.8, k.9, k.10, k.11, k.12, k.13, k.14, k.15, k.16⟩, k2, k3, k4, k5, k6⟩

/-- READ_FRAME's step keeps those registers, counts exactly the byte it takes, and changes memory only by a payload byte
(41_frame_reader.md R127, R130, R137). -/
theorem readFrameBody_kept (s : State) :
    Kept s (readFrameBody s) ∧
    (readFrameBody s).rxTotal =
      (if s.elapsed.ult s.deadline = true ∧ s.input.rxValid = true then satSucc s.rxTotal else s.rxTotal) ∧
    (s.busy = true → (readFrameBody s).busy = false → (readFrameBody s).done = true) ∧
    (readFrameBody s).mem =
      if s.elapsed.ult s.deadline = true ∧ s.input.rxValid = true ∧ s.phase = .pay then
        (bufWrite s .rx s.rxCnt.toNat s.input.rxData).mem else s.mem := by
  cases hu : s.elapsed.ult s.deadline with
  | false =>
    rw [readFrameBody_timeout s hu]
    exact ⟨by constructor <;> rfl, by simp, by simp, by simp⟩
  | true =>
    cases hv : s.input.rxValid with
    | false =>
      rw [readFrameBody_stall s hu hv]
      rcases countTick_cases s.input.tick s with ⟨_, _, he⟩ | ⟨_, he⟩ <;> rw [he] <;>
        exact ⟨by constructor <;> rfl, by simp, fun h1 h2 => by simp_all, by simp⟩
    | true =>
      rw [readFrameBody_byte s hu hv]
      obtain ⟨k, _, k3, k4, k5, k6⟩ := takeByte_kept s.input.rxData s
      rcases countTick_cases s.input.tick (takeByte s.input.rxData s) with ⟨_, hb, he⟩ | ⟨_, he⟩ <;> rw [he]
      · exact ⟨⟨k.1, k.2, k.3, k.4, k.5, k.6, k.7, k.8, k.9, k.10, k.11, k.12, k.13, k.14, k.15, k.16⟩, by simpa using k3,
          fun _ h2 => absurd hb (by simpa using h2), by simpa using k6⟩
      · exact ⟨k, by simpa using k3, k5, by simpa using k6⟩

/-- The executing command's step keeps those registers; it ends BUSY only by setting DONE; and only READ_FRAME's step
changes memory. -/
theorem engineStep_kept (s : State) :
    Kept s (engineStep s) ∧ (s.busy = true → (engineStep s).busy = false → (engineStep s).done = true) ∧
    (engineStep s).mem =
      if s.pendErr = .ok ∧ executing s = some .readFrame then (readFrameBody s).mem else s.mem := by
  have h := engineStep_cases s
  generalize engineStep s = t at h
  cases h with
  | pending p => exact ⟨by constructor <;> rfl, by simp, by simp [p]⟩
  | illegal n => exact ⟨by constructor <;> rfl, by simp, by simp [n]⟩
  | nop p e => exact ⟨by constructor <;> rfl, by simp, by simp [e]⟩
  | lcsGen l p e => exact ⟨by constructor <;> rfl, by simp [lcsGenBody], by simp [e, lcsGenBody]⟩
  | waits sel p e l =>
    refine ⟨by constructor <;> rfl, fun h1 h2 => by simp_all, ?_⟩
    rcases e with e | ⟨tag, e⟩ <;> simp [e]
  | dcsGen sel p e l => exact ⟨by constructor <;> rfl, by simp [dcsGenBody], by simp [e, dcsGenBody]⟩
  | preStep b p e => exact ⟨by constructor <;> rfl, by simp [preStepBody], by simp [e, preStepBody]⟩
  | preClr p e => exact ⟨by constructor <;> rfl, by simp [preClrBody], by simp [e, preClrBody]⟩
  | readFrame p e =>
    obtain ⟨k, _, k3, _⟩ := readFrameBody_kept s
    exact ⟨k, k3, by simp [p, e]⟩
  | writeFrame p e =>
    rw [if_neg (by simp [e])]
    unfold writeFrameBody
    split
    · split
      · exact ⟨by constructor <;> rfl, fun _ _ => rfl, rfl⟩
      · exact ⟨by constructor <;> rfl, fun h1 h2 => absurd h1 (by simpa [handOver] using h2), rfl⟩
    · exact ⟨by constructor <;> rfl, fun h1 h2 => absurd h1 (by simp [h2]), rfl⟩
  | findTag tag sel p e l =>
    unfold findTagBody
    split <;> exact ⟨by constructor <;> rfl, by simp, by simp [e]⟩

/-- The same of an abort edge, which always ends BUSY (44_control.md R205). -/
theorem abortEdge_kept (s : State) :
    Kept s (abortEdge s) ∧ (abortEdge s).busy = false ∧ (s.busy = true → (abortEdge s).done = true) ∧
    (abortEdge s).mem = (engineStep s).mem ∧ (abortEdge s).rxTotal = (engineStep s).rxTotal := by
  obtain ⟨k, k2, _⟩ := engineStep_kept s
  unfold abortEdge
  split
  · exact ⟨⟨k.1, k.2, k.3, k.4, k.5, k.6, k.7, k.8, k.9, k.10, k.11, k.12, k.13, k.14, k.15, k.16⟩, rfl, fun _ => rfl, rfl,
      rfl⟩
  · rename_i hb
    exact ⟨k, by simpa using hb, fun h => k2 h (by simpa using hb), rfl, rfl⟩

end Sys2Proof.Machine
end

