-- ==== Sys2Proof/Laws/Inputs.lean ====
section
/-! SUPPORT. A command's edge reads the outside agents' script in four fields only (`rxValid`, `rxData`, `txReady`,
`tick`), and passes the script on as it is: replacing the script by one that agrees there replaces it in the result. -/

namespace Sys2Proof.Machine

/-- The next cycle of the script `l` agrees with `s`'s in the fields that a command reads. -/
structure SameForCommands (s : State) (l : List Input) : Prop where
  txReady : (l.headD Input.quiet).txReady = s.input.txReady
  rxValid : (l.headD Input.quiet).rxValid = s.input.rxValid
  rxData : (l.headD Input.quiet).rxData = s.input.rxData
  tick : (l.headD Input.quiet).tick = s.input.tick

theorem bufWrite_inputs_comm (s : State) (sel : Sel) (i : Nat) (v : Byte) (l : List Input) :
    bufWrite { s with inputs := l } sel i v = { bufWrite s sel i v with inputs := l } := by
  have : cap { s with inputs := l } sel = cap s sel := by cases sel <;> rfl
  unfold bufWrite
  rw [this]
  split <;> rfl

theorem applyPhase_inputs (b : Byte) (s : State) (l : List Input) :
    applyPhase b { s with inputs := l } = { applyPhase b s with inputs := l } := by
  have e : ({ s with inputs := l } : State).phase = s.phase := rfl
  unfold applyPhase
  rw [e]
  split
  · rfl
  · unfold onSync; simp only; split <;> rfl
  · rfl
  · rfl
  · unfold onLcs; simp only; (repeat' split) <;> rfl
  · rfl
  · unfold onPay; rw [bufWrite_inputs_comm]
  · rfl
  · unfold onPost; simp only; split <;> rfl

theorem countTick_inputs (tick : Bool) (s : State) (l : List Input) :
    countTick tick { s with inputs := l } = { countTick tick s with inputs := l } := by
  unfold countTick; simp only; split <;> rfl

theorem readFrameBody_inputs (s : State) (l : List Input) (h : SameForCommands s l) :
    readFrameBody { s with inputs := l } = { readFrameBody s with inputs := l } := by
  have e2 : ({ s with inputs := l } : State).input.rxValid = s.input.rxValid := h.rxValid
  have e3 : ({ s with inputs := l } : State).input.rxData = s.input.rxData := h.rxData
  have e4 : ({ s with inputs := l } : State).input.tick = s.input.tick := h.tick
  unfold readFrameBody
  rw [e2, e3, e4]
  split
  · split
    · have : takeByte s.input.rxData { s with inputs := l } = { takeByte s.input.rxData s with inputs := l } :=
        applyPhase_inputs _ { s with rxTotal := satSucc s.rxTotal } l
      rw [this, countTick_inputs]
    · rw [countTick_inputs]
  · rfl

theorem writeFrameBody_inputs (s : State) (l : List Input) (h : SameForCommands s l) :
    writeFrameBody { s with inputs := l } = { writeFrameBody s with inputs := l } := by
  have e1 : ({ s with inputs := l } : State).input.txReady = s.input.txReady := h.txReady
  have e2 : handOver { s with inputs := l } = { handOver s with inputs := l } := rfl
  unfold writeFrameBody
  rw [e1, e2]
  cases s.input.txReady <;> simp
  split <;> rfl

theorem unlessPending_inputs (f : State → State) (s : State) (l : List Input)
    (h : f { s with inputs := l } = { f s with inputs := l }) :
    unlessPending f { s with inputs := l } = { unlessPending f s with inputs := l } := by
  unfold unlessPending; simp only [h]; split <;> rfl

theorem atLatency_inputs (f : State → State) (s : State) (l : List Input)
    (h : f { s with inputs := l } = { f s with inputs := l }) :
    atLatency f { s with inputs := l } = { atLatency f s with inputs := l } := by
  unfold atLatency; simp only [h]; split <;> rfl

theorem findTagBody_inputs (tag : Byte) (sel : Sel) (s : State) (l : List Input) :
    findTagBody tag sel { s with inputs := l } = { findTagBody tag sel s with inputs := l } := by
  have : scan { s with inputs := l } sel s.winBase.toNat s.winLen.toNat tag s.marker =
      scan s sel s.winBase.toNat s.winLen.toNat tag s.marker := rfl
  unfold findTagBody; simp only [this]; split <;> rfl

theorem engineStep_inputs (s : State) (l : List Input) (h : SameForCommands s l) :
    engineStep { s with inputs := l } = { engineStep s with inputs := l } := by
  have : executing { s with inputs := l } = executing s := rfl
  unfold engineStep
  rw [this]
  split <;>
    first
    | exact unlessPending_inputs _ _ _ rfl
    | exact unlessPending_inputs _ _ _ (atLatency_inputs _ _ _ rfl)
    | exact unlessPending_inputs _ _ _ (atLatency_inputs _ _ _ (findTagBody_inputs _ _ _ _))
    | exact unlessPending_inputs _ _ _ (readFrameBody_inputs _ _ h)
    | exact unlessPending_inputs _ _ _ (writeFrameBody_inputs _ _ h)
    | rfl

theorem accept_inputs (w : Word) (s : State) (l : List Input) :
    accept w { s with inputs := l } = { accept w s with inputs := l } := by
  have : staticCheck { s with inputs := l } w = staticCheck s w := rfl
  unfold accept
  rw [this]
  split
  · unfold acceptanceWrites
    (repeat' split) <;> rfl
  · rfl

theorem abortEdge_inputs (s : State) (l : List Input) (h : SameForCommands s l) :
    abortEdge { s with inputs := l } = { abortEdge s with inputs := l } := by
  unfold abortEdge
  rw [engineStep_inputs s l h]
  simp only
  split <;> rfl

theorem commandEdge_inputs (i : Instr) (f : State → State) (s : State) (l : List Input)
    (h : f { s with inputs := l } = { f s with inputs := l }) :
    commandEdge i f { s with inputs := l } = { commandEdge i f s with inputs := l } := by
  unfold commandEdge
  simp only
  split
  · exact unlessPending_inputs f s l h
  · exact accept_inputs _ s l

/-- Every command. -/
theorem exec_inputs (i : Instr) (s t : State) (l : List Input) (h : SameForCommands s l) (ht : exec i s = .next t) :
    exec i { s with inputs := l } = .next { t with inputs := l } := by
  have key : ∀ f : State → State, f { s with inputs := l } = { f s with inputs := l } →
      exec i s = .next (commandEdge i f s) → .next (commandEdge i f { s with inputs := l }) =
        (.next { t with inputs := l } : Host.Outcome State Fault Refusal) := by
    intro f hf he
    rw [he] at ht
    injection ht with ht
    rw [commandEdge_inputs i f s l hf, ht]
  cases i with
  | nop => exact key _ rfl rfl
  | lcsGen len16 => exact key _ rfl rfl
  | dcsGen sel => exact key _ (atLatency_inputs _ s l rfl) rfl
  | preStep byte => exact key _ rfl rfl
  | preClr => exact key _ rfl rfl
  | readFrame => exact key _ (readFrameBody_inputs s l h) rfl
  | writeFrame => exact key _ (writeFrameBody_inputs s l h) rfl
  | findTag tag sel => exact key _ (atLatency_inputs _ s l (findTagBody_inputs tag sel s l)) rfl
  | abort =>
    simp only [exec, execAbort] at ht ⊢
    injection ht with ht
    subst ht
    congr 1
    split
    · exact abortEdge_inputs s l h
    · rfl

end Sys2Proof.Machine
end

