-- ==== Sys2Proof/Laws/Run.lean ====
section
/-! SUPPORT. Runs: how steps compose, and an undisturbed edge of an executing command. -/

namespace Sys2Proof.Machine

theorem runsTo_zero (s t : State) : runsTo 0 s t ↔ s = t :=
  ⟨fun h => by injection h, fun h => by rw [h]; rfl⟩

/-- The host's run, one step unfolded. -/
theorem run_succ_next (M : Host.Core) (n : Nat) (s u : M.State) (h : M.step s = .next u) :
    M.run (n + 1) s = M.run n u := by
  rw [Host.Core.run, h]

theorem run_succ_refused (M : Host.Core) (n : Nat) (s : M.State) (r : M.Refusal) (h : M.step s = .refused r) :
    M.run (n + 1) s = .refused r := by
  rw [Host.Core.run, h]

/-- A run of `n + 1` steps is a step and a run of `n`. -/
theorem runsTo_succ (n : Nat) (s u t : State) (h : step s = .next u) : runsTo (n + 1) s t ↔ runsTo n u t := by
  unfold runsTo
  rw [run_succ_next Sys2Proof.core n s u h]

/-- Runs compose. -/
theorem runsTo_add (m n : Nat) (s u t : State) (h1 : runsTo m s u) (h2 : runsTo n u t) : runsTo (m + n) s t := by
  induction m generalizing s with
  | zero => rw [runsTo_zero] at h1; subst h1; simpa using h2
  | succ m ih =>
    cases hs : step s with
    | next v =>
      rw [runsTo_succ m s v u hs] at h1
      have := ih v h1
      rw [show m + 1 + n = (m + n) + 1 by omega, runsTo_succ (m + n) s v t hs]
      exact this
    | fault f => cases f
    | refused r =>
      unfold runsTo at h1
      rw [run_succ_refused Sys2Proof.core m s r hs] at h1
      cases h1

/-- A run leads to one state. -/
theorem runsTo_unique (n : Nat) (s t u : State) (h1 : runsTo n s t) (h2 : runsTo n s u) : t = u := by
  unfold runsTo at h1 h2
  rw [h1] at h2
  injection h2

/-- An edge with neither reset nor ABORT of an executing command: the command's own step, and then the host can change no
field but CFG.IE, DONE, BWE and its own read log, and it keeps a DONE set at this edge (44_control.md R208, 20_memory.md
R77, 60_exceptions.md R234). -/
theorem step_undisturbed (s : State) (hb : s.busy = true) (h : s.input.undisturbing) :
    ∃ ie done bwe reads, step s = .next { engineStep s with
      ie := ie, done := done, bwe := bwe, inputs := s.inputs.tail, hostReads := reads } ∧
      ((engineStep s).busy = false → done = (engineStep s).done) := by
  obtain ⟨t, ht, he⟩ := step_edge s h.1
  have : t = engineStep s := by
    cases he with
    | aborted b w => exact absurd w h.2
    | executed b w => rfl
    | noCommand i w => rw [hb] at i; cases i
    | idleAbort i w x => rw [hb] at i; cases i
    | accepted i w j x y z => rw [hb] at i; cases i
    | acceptedIllegal i w e x y => rw [hb] at i; cases i
  subst this
  obtain ⟨ie, d, b, rs, e, _, h2⟩ := endEdge_busy s (engineStep s) hb
  exact ⟨ie, d, b, rs, by rw [ht, e], h2⟩

/-- The next edge of a script that begins with `i`. -/
theorem input_cons (s : State) (i : Input) (l : List Input) (h : s.inputs = i :: l) : s.input = i := by
  simp [State.input, h]

end Sys2Proof.Machine
end

