-- ==== Sys2Proof/Tests/Slice0.lean ====
section
/-! SUPPORT. The model's own tests: words written out from spec/30_encoding.md, one-edge tests whose expected values are
those of spec/95_test_vectors.md, and for each obligation with hypotheses a witness that meets them. -/

namespace Sys2Proof.Tests

open Sys2Proof.Machine

/-! Helpers. -/

/-- The reset state with a script. -/
def start (l : List Input) : State := { State.reset with inputs := l }

/-- A cycle in which the host writes. -/
def hostWrites (a : Addr) (v : Word) : Input := { Input.quiet with host := .write a v }

/-- A cycle in which the RX source presents a byte. -/
def rxByte (b : Byte) : Input := { Input.quiet with rxValid := true, rxData := b }

/-- A cycle in which the TX sink is ready. -/
def txReadyCycle : Input := { Input.quiet with txReady := true }

/-- `p` holds of the state that one step answers. -/
def after (s : State) (p : State → Bool) : Bool :=
  match step s with
  | .next t => p t
  | .fault _ => false
  | .refused _ => false

/-- A command executing, as its acceptance edge leaves it, with a script. -/
def running (w : Word) (s : State) (l : List Input) : State := { accept w s with inputs := l }

/-- READ_FRAME executing in a phase after the preamble, offered the byte `b`. -/
def reading (ph : Phase) (b : Byte) : State :=
  { running 0x00000005#32 State.reset [rxByte b] with phase := ph, sync := .matched }

/-! Well-formedness: one ill-formed word for each check of the opcode map (R81 to R89). -/

theorem test_formatN_reserved_bit_refused : definedWord 0x00000100#32 = false := by decide
theorem test_formatL_reserved_bit_refused : definedWord 0x01000001#32 = false := by decide
theorem test_formatS_low_reserved_bit_refused : definedWord 0x00000102#32 = false := by decide
theorem test_formatS_high_reserved_bit_refused : definedWord 0x01000002#32 = false := by decide
theorem test_formatB_reserved_bit_refused : definedWord 0x00010003#32 = false := by decide
theorem test_preClr_reserved_bit_refused : definedWord 0x00000104#32 = false := by decide
theorem test_readFrame_reserved_bit_refused : definedWord 0x00000105#32 = false := by decide
theorem test_writeFrame_reserved_bit_refused : definedWord 0x00010006#32 = false := by decide
theorem test_formatT_reserved_bit_refused : definedWord 0x00020007#32 = false := by decide
theorem test_abort_reserved_bit_refused : definedWord 0x0000010F#32 = false := by decide
theorem test_reserved_opcode_refused : definedWord 0x00000008#32 = false := by decide
theorem test_every_instruction_is_well_formed (i : Instr) : i.wellFormed = true := by cases i <;> rfl

/-! Decoding: words written out bit by bit from the formats (R81 to R85, R87). -/

theorem test_decode_nop : decode 0b00000000_00000000_00000000_00000000#32 = .ok .nop := by decide
theorem test_decode_lcsGen : decode 0b00000000_00010010_00110100_00000001#32 = .ok (.lcsGen 0x1234#16) := by decide
theorem test_decode_dcsGen_tx : decode 0b00000000_00000000_00000000_00000010#32 = .ok (.dcsGen .tx) := by decide
theorem test_decode_dcsGen_rx : decode 0b00000000_00000001_00000000_00000010#32 = .ok (.dcsGen .rx) := by decide
theorem test_decode_preStep : decode 0b00000000_00000000_11111111_00000011#32 = .ok (.preStep 0xFF#8) := by decide
theorem test_decode_preClr : decode 0b00000000_00000000_00000000_00000100#32 = .ok .preClr := by decide
theorem test_decode_readFrame : decode 0b00000000_00000000_00000000_00000101#32 = .ok .readFrame := by decide
theorem test_decode_writeFrame : decode 0b00000000_00000000_00000000_00000110#32 = .ok .writeFrame := by decide
theorem test_decode_findTag_tx : decode 0b00000000_00000000_10010111_00000111#32 = .ok (.findTag 0x97#8 .tx) := by decide
theorem test_decode_findTag_rx : decode 0b00000000_00000001_10010111_00000111#32 = .ok (.findTag 0x97#8 .rx) := by decide
theorem test_decode_abort : decode 0b00000000_00000000_00000000_00001111#32 = .ok .abort := by decide
theorem test_decode_reserved_opcode : decode 0x000000FF#32 = .error (.reservedOpcode 0xFF#8) := by decide
theorem test_decode_reserved_bit : decode 0x00000800#32 = .error (.reservedBits 0x00#8) := by decide
theorem test_decodeTableWord : decodeTableWord 32 0x00019707 = some (.findTag 0x97#8 .rx) := by decide

/-! One edge each, with the values of spec/95_test_vectors.md. -/

/-- A NOP written while idle is latched; LAST_OP and BUSY show in STATUS. -/
theorem test_nop_accepted : after (start [hostWrites 0x00008#18 0#32]) (fun t => statusWord t == 0x00000001#32) = true := by
  decide
/-- NOP at e0+1: STATUS = 0x00000002 (R204). -/
theorem test_nop_completes : after (running 0#32 State.reset []) (fun t => statusWord t == 0x00000002#32) = true := by decide
/-- Section 2.1: LCS_GEN 0x1234 gives 0xBA. -/
theorem test_lcsGen : after (running 0x00123401#32 State.reset [])
    (fun t => t.res == 0xBA#8 && statusWord t == 0x00010002#32) = true := by decide
/-- Section 2.1: LCS_GEN 0xFF01 wraps to 0x00. -/
theorem test_lcsGen_wraps : after (running 0x00FF0101#32 State.reset []) (fun t => t.res == 0x00#8 && t.done) = true := by
  decide
/-- Section 2.2: DCS_GEN TX over D4 02 gives 0x2A. -/
theorem test_dcsGen : after { running 0x00000002#32
      { State.reset with mem := [(0x10000, 0xD4#8), (0x10001, 0x02#8)], winLen := 2#16 } [] with latLeft := 1 }
    (fun t => t.res == 0x2A#8 && t.done && t.err == .ok) = true := by decide
/-- Section 2.2: a window past the capacity is latched as RANGE. -/
theorem test_dcsGen_range :
    after { running 0x00010002#32 { State.reset with winBase := 0xFFFF#16, winLen := 0xFFFF#16 } [] with res := 0x55#8 }
      (fun t => t.err == .range && t.res == 0x55#8 && t.done) = true := by decide
/-- Section 2.3: from WAIT_SB2, 0xFF matches: STATUS = 0x00030032. -/
theorem test_preStep_matches : after (running 0x0000FF03#32 { State.reset with sync := .waitSb2 } [])
    (fun t => statusWord t == 0x00030032#32) = true := by decide
/-- Section 2.3: from MATCHED, 0x00 leads to WAIT_SB1: STATUS = 0x00030012. -/
theorem test_preStep_after_match : after (running 0x00000003#32 { State.reset with sync := .matched } [])
    (fun t => statusWord t == 0x00030012#32) = true := by decide
/-- Section 2.3: PRE_CLR from WAIT_SB1: STATUS = 0x00040002. -/
theorem test_preClr : after (running 0x00000004#32 { State.reset with sync := .waitSb1 } [])
    (fun t => statusWord t == 0x00040002#32) = true := by decide
/-- RF1's last byte: STATUS = 0x00055036. -/
theorem test_readFrame_ack : after (reading .ackPost 0x00#8) (fun t => statusWord t == 0x00055036#32) = true := by decide
/-- RF5: a corrupted LCS for length 2: STATUS = 0x00054332. -/
theorem test_readFrame_lcs_err : after { reading .lcs 0xFD#8 with rxLen := 2#16 }
    (fun t => statusWord t == 0x00054332#32) = true := by decide
/-- The first WRITE_FRAME byte handed over is the preamble 0x00, and TX_CNT counts it. -/
theorem test_writeFrame_first_byte : after (running 0x00000006#32 State.reset [txReadyCycle])
    (fun t => t.txSent == [0x00#8] && t.txCnt == 1#17 && t.busy) = true := by decide
/-- S4's last byte but one: the DCS of D4 02 is 0x2A. -/
theorem test_writeFrame_dcs_byte :
    after { running 0x00000006#32
        { State.reset with txLen := 2#16, mem := [(0x10000, 0xD4#8), (0x10001, 0x02#8)] } [txReadyCycle] with txCnt := 8#17 }
      (fun t => t.txSent == [0x2A#8] && t.busy) = true := by decide
/-- S9: TLV_RES = 0x01030002. -/
theorem test_findTag : after { running 0x00019707#32
      { State.reset with
        winLen := 5#16, mem := [(0x20000, 0x97#8), (0x20001, 3#8), (0x20002, 0xAA#8), (0x20003, 0xBB#8), (0x20004, 0xCC#8)] }
      [] with latLeft := 1 }
    (fun t => tlvResWord t == 0x01030002#32 && t.err == .ok) = true := by decide
/-- S11: a truncated length field is NOT_FOUND. -/
theorem test_findTag_truncated : after { running 0x00019707#32
      { State.reset with winLen := 1#16, mem := [(0x20000, 0x97#8)] } [] with latLeft := 1 }
    (fun t => tlvResWord t == 0#32 && t.err == .notFound) = true := by decide
/-- RF19: an ABORT of a READ_FRAME: STATUS = 0x00051902. A tick at the abort edge is ignored, as at every completion edge
(R131). -/
theorem test_abort :
    after (running 0x00000005#32 State.reset [{ hostWrites 0x00008#18 0x0000000F#32 with tick := true }])
      (fun t => statusWord t == 0x00051902#32 && t.elapsed == 0#32) = true := by decide
/-- An ABORT while idle has no effect (R205). -/
theorem test_abort_idle : after (start [hostWrites 0x00008#18 0x0000000F#32]) (fun t => t == State.reset) = true := by decide
/-- R206's example: the word 0x00000008 completes with ILLEGAL, LAST_OP = 0x08. -/
theorem test_illegal_word : after (running 0x00000008#32 State.reset []) (fun t => statusWord t == 0x00080802#32) = true := by
  decide

/-! The words of the opcode table, placed where the next edge finds its command. -/

theorem test_placed_words_run :
    [0x0, 0x1, 0x2, 0x3, 0x4, 0x5, 0x6, 0x7, 0xF].all (fun w => after (State.reset.withFetchWord 32 w) fun _ => true) =
      true := by decide
theorem test_placed_lcsGen : after (State.reset.withFetchWord 32 0x00000201) (fun t => t.res == 0xFE#8 && t.done) = true := by
  decide

/-! Witnesses: for each obligation with hypotheses, a state and operands that meet them all. -/

theorem witness_DecodeInvertsEncode :
    (Instr.findTag 0x97#8 .rx).wellFormed = true ∧ decode 0x00019707#32 = .ok (.findTag 0x97#8 .rx) := by decide

theorem witness_StepRunsTheCommand_busy :
    ∃ t, (running 0#32 State.reset []).input.rst = false ∧ Instr.nop.wellFormed = true ∧
      exec .nop (running 0#32 State.reset []) = .next t ∧ (running 0#32 State.reset []).busy = true ∧
      cmdWord (running 0#32 State.reset []).input.host ≠ some abortWord ∧
      decode (latchedWord (running 0#32 State.reset [])) = .ok .nop ∧ Instr.nop ≠ .abort :=
  ⟨_, by decide, by decide, rfl, by decide, by decide, by decide, by decide⟩

theorem witness_StepRunsTheCommand_abort :
    ∃ t, (running 5#32 State.reset [hostWrites 0x00008#18 0xF#32]).input.rst = false ∧
      exec .abort (running 5#32 State.reset [hostWrites 0x00008#18 0xF#32]) = .next t ∧
      (running 5#32 State.reset [hostWrites 0x00008#18 0xF#32]).busy = true ∧
      cmdWord (running 5#32 State.reset [hostWrites 0x00008#18 0xF#32]).input.host = some abortWord :=
  ⟨_, by decide, rfl, by decide, by decide⟩

theorem witness_StepRunsTheCommand_idle :
    ∃ t, (start [hostWrites 0x00008#18 4#32]).input.rst = false ∧
      exec .preClr (start [hostWrites 0x00008#18 4#32]) = .next t ∧ (start [hostWrites 0x00008#18 4#32]).busy = false ∧
      cmdWord (start [hostWrites 0x00008#18 4#32]).input.host = some 4#32 ∧ decode 4#32 = .ok .preClr :=
  ⟨_, by decide, rfl, by decide, by decide, by decide⟩

theorem witness_ResetEdgeLeavesResetValues :
    (running 5#32 State.reset [{ Input.quiet with rst := true }]).input.rst = true := by decide

/-- READ_FRAME executing, at the first byte of a two-byte payload. -/
def paying : State :=
  { reading .pay 0x22#8 with rxLen := 2#16, lcsRx := 0xFE#8, mem := [(0x20000, 0x11#8)] }

theorem paying_meets_the_invariant : paying.Inv where
  capsLegal := by decide
  memCanonical := by decide
  memExists := by
    intro c hc
    have hm : c = (0x20000, 0x11#8) := by simpa [paying] using hc
    exact ⟨.rx, 0, by decide, by rw [hm]; rfl⟩
  busyClears := by decide
  pendErrKinds := by decide
  pendErrIllegal := by
    have hd : decode (latchedWord paying) = .ok .readFrame := by decide
    have hp : paying.pendErr = .ok := by decide
    rw [hd, hp]
    exact ⟨fun h => absurd h (by decide), fun h => h.elim fun _ h => nomatch h⟩
  abortNeverLatched := by decide
  ackCompleted := by decide
  elapsedBounded := fun _ => by decide
  reader := fun _ => ⟨by decide, by decide, by decide, by decide, by decide⟩
  received := by decide
  writer := fun h => absurd h.2.1 (by decide)
  window := by decide
  tlvSlice := ⟨fun h => absurd h (by decide), by decide⟩

theorem witness_EveryStepKeepsInvariant : ∃ t, paying.Inv ∧ step paying = .next t :=
  ⟨_, paying_meets_the_invariant, rfl⟩

theorem witness_IdAndCapsNeverChange : ∃ t, step State.reset = .next t := ⟨_, rfl⟩

theorem witness_DcsLaws : List.Perm [0x01#8, 0x02#8] [0x02#8, 0x01#8] := by decide

theorem witness_AutomatonTable : (0x55#8 : Byte) ≠ 0x00#8 ∧ (0x55#8 : Byte) ≠ 0xFF#8 := by decide

theorem witness_AutomatonFindsThePattern :
    (∀ k, k < 3 → deltaRun .waitPre ([0x00#8, 0x00#8, 0xFF#8].take k) ≠ .matched) ∧
    deltaRun .waitPre [0x00#8, 0x00#8, 0xFF#8] = .matched := by decide

theorem witness_FrameByteIsTheDataFrame :
    0 ≤ 7 + State.reset.txLen.toNat ∧ 7 ≤ 7 + State.reset.txLen.toNat := by decide

/-- Two states that agree inside the window of one byte and differ outside it. -/
theorem witness_ScanReadsOnlyItsWindow :
    (∀ k, 0 ≤ k → k < 0 + 1 →
      bufRead { State.reset with mem := [(0x20000, 0x97#8), (0x20001, 1#8)] } .rx k =
        bufRead { State.reset with mem := [(0x20000, 0x97#8), (0x20001, 2#8)] } .rx k) ∧
    bufRead { State.reset with mem := [(0x20000, 0x97#8), (0x20001, 1#8)] } .rx 1 ≠
      bufRead { State.reset with mem := [(0x20000, 0x97#8), (0x20001, 2#8)] } .rx 1 := by
  refine ⟨fun k _ hk => ?_, by decide⟩
  have : k = 0 := by omega
  subst this
  decide

theorem witness_OneCycleCommandsAreAccepted : State.reset.busy = false := by decide

/-- A window that ends exactly at the capacity. -/
theorem witness_WindowCommandsAreAccepted :
    ({ State.reset with winBase := 252#16, winLen := 4#16 } : State).busy = false ∧
    ({ State.reset with winBase := 252#16, winLen := 4#16 } : State).winBase.toNat +
      ({ State.reset with winBase := 252#16, winLen := 4#16 } : State).winLen.toNat ≤
        cap { State.reset with winBase := 252#16, winLen := 4#16 } .rx := by decide

theorem witness_ReadFrameIsAccepted : State.reset.busy = false := by decide

/-- A payload that fills TXBUF. -/
theorem witness_WriteFrameIsAccepted : ({ State.reset with txLen := 256#16 } : State).busy = false ∧
    ({ State.reset with txLen := 256#16 } : State).txLen.toNat ≤
      ({ State.reset with txLen := 256#16 } : State).txbufCap.toNat := by decide

/-- A window one byte past the capacity, and a payload one byte too long. -/
theorem witness_RangeErrorIsLatched :
    (({ State.reset with winBase := 253#16, winLen := 4#16 } : State).busy = false ∧
      cap { State.reset with winBase := 253#16, winLen := 4#16 } .tx <
        ({ State.reset with winBase := 253#16, winLen := 4#16 } : State).winBase.toNat +
          ({ State.reset with winBase := 253#16, winLen := 4#16 } : State).winLen.toNat) ∧
    ({ State.reset with txLen := 257#16 } : State).busy = false ∧
      ({ State.reset with txLen := 257#16 } : State).txbufCap.toNat <
        ({ State.reset with txLen := 257#16 } : State).txLen.toNat := by decide

/-- The two edges of an illegal word. -/
theorem witness_IllegalWordCompletesWithIllegal :
    (start [hostWrites 0x00008#18 8#32]).busy = false ∧ (start [hostWrites 0x00008#18 8#32]).input.rst = false ∧
    cmdWord (start [hostWrites 0x00008#18 8#32]).input.host = some 8#32 ∧ definedWord 8#32 = false ∧
    after (start [hostWrites 0x00008#18 8#32]) (fun t => t.input.rst == false && t.input.host == .none) = true := by decide

theorem witness_PendingErrorCompletes :
    (running 0x01000001#32 State.reset []).busy = true ∧ (running 0x01000001#32 State.reset []).pendErr ≠ .ok := by decide

theorem witness_NopCompletes :
    (running 0#32 State.reset []).busy = true ∧ (running 0#32 State.reset []).pendErr = .ok := by decide

theorem witness_LcsGenCompletes :
    (running 1#32 State.reset []).busy = true ∧ (running 1#32 State.reset []).pendErr = .ok := by decide

/-- The completion edge of a window of 0 bytes, and a waiting edge of a window of 1 byte. -/
theorem witness_DcsGenCompletesAtItsEdge :
    ((running 2#32 State.reset []).busy = true ∧ (running 2#32 State.reset []).pendErr = .ok ∧
      (running 2#32 State.reset []).latLeft = 1) ∧
    (running 2#32 { State.reset with winLen := 1#16 } []).busy = true ∧
      (running 2#32 { State.reset with winLen := 1#16 } []).pendErr = .ok ∧
      1 < (running 2#32 { State.reset with winLen := 1#16 } []).latLeft := by decide

theorem witness_PreStepCompletes :
    (running 3#32 State.reset []).busy = true ∧ (running 3#32 State.reset []).pendErr = .ok := by decide

theorem witness_PreClrCompletes :
    (running 4#32 State.reset []).busy = true ∧ (running 4#32 State.reset []).pendErr = .ok := by decide

/-- FIND_TAG 0x97 in RXBUF at its completion edge, over the two-byte window `97 00`, which ends with an empty value. -/
def finding : State :=
  { running 0x00019707#32 { State.reset with winLen := 2#16, mem := [(0x20000, 0x97#8), (0x20001, 0#8)] } [] with
    latLeft := 1 }

/-- Found with an empty value at the window's end, not found in an empty window, and a waiting edge. -/
theorem witness_FindTagCompletesAtItsEdge :
    (finding.busy = true ∧ finding.pendErr = .ok ∧ finding.latLeft = 1 ∧
      scan finding .rx finding.winBase.toNat finding.winLen.toNat 0x97#8 finding.marker = some (2, 0#8)) ∧
    ((running 0x00019707#32 State.reset []).busy = true ∧ (running 0x00019707#32 State.reset []).pendErr = .ok ∧
      (running 0x00019707#32 State.reset []).latLeft = 1 ∧
      scan (running 0x00019707#32 State.reset []) .rx 0 0 0x97#8 0x5F#8 = none) ∧
    1 < (running 0x00019707#32 { State.reset with winLen := 1#16 } []).latLeft := by decide

/-- The last byte but one, the last byte, and a cycle without `tx_ready`. -/
theorem witness_WriteFrameHandsOverOneByte :
    (writingFrame { running 6#32 State.reset [txReadyCycle] with txCnt := 6#17 } ∧
      ({ running 6#32 State.reset [txReadyCycle] with txCnt := 6#17 } : State).input.txReady = true ∧
      ({ running 6#32 State.reset [txReadyCycle] with txCnt := 6#17 } : State).txCnt.toNat ≠ 0 + 7) ∧
    (writingFrame { running 6#32 State.reset [txReadyCycle] with txCnt := 7#17 } ∧
      ({ running 6#32 State.reset [txReadyCycle] with txCnt := 7#17 } : State).txCnt.toNat = 0 + 7) ∧
    writingFrame (running 6#32 State.reset []) ∧ (running 6#32 State.reset []).input.txReady = false := by
  unfold writingFrame
  decide

/-- In every phase, a byte arrives. -/
theorem witness_byteArrives (ph : Phase) (b : Byte) : byteArrives (reading ph b) b ∧ (reading ph b).phase = ph :=
  ⟨⟨⟨rfl, rfl, rfl⟩, by show (0#32).toNat < (0x3E8#32).toNat; decide, rfl, rfl⟩, rfl⟩

theorem witness_ReadFrameSyncPhase : byteArrives (reading .sync 0xFF#8) 0xFF#8 ∧ (reading .sync 0xFF#8).phase = .sync :=
  witness_byteArrives _ _

theorem witness_ReadFrameLengthPhases :
    (byteArrives (reading .lenH 0x01#8) 0x01#8 ∧ (reading .lenH 0x01#8).phase = .lenH) ∧
    byteArrives (reading .lenL 0x02#8) 0x02#8 ∧ (reading .lenL 0x02#8).phase = .lenL :=
  ⟨witness_byteArrives _ _, witness_byteArrives _ _⟩

theorem witness_ReadFrameLcsPhase : byteArrives (reading .lcs 0xFF#8) 0xFF#8 ∧ (reading .lcs 0xFF#8).phase = .lcs :=
  witness_byteArrives _ _

theorem witness_ReadFrameAckPostPhase :
    byteArrives (reading .ackPost 0x00#8) 0x00#8 ∧ (reading .ackPost 0x00#8).phase = .ackPost :=
  witness_byteArrives _ _

theorem witness_ReadFramePayPhase : paying.Inv ∧ byteArrives paying 0x22#8 ∧ paying.phase = .pay :=
  ⟨paying_meets_the_invariant, ⟨⟨by decide, by decide, by decide⟩, by decide, by decide, by decide⟩, by decide⟩

theorem witness_ReadFrameChecksumPhases :
    (byteArrives (reading .dcs 0x00#8) 0x00#8 ∧ (reading .dcs 0x00#8).phase = .dcs) ∧
    byteArrives (reading .post 0x00#8) 0x00#8 ∧ (reading .post 0x00#8).phase = .post :=
  ⟨witness_byteArrives _ _, witness_byteArrives _ _⟩

/-- ELAPSED exactly at the deadline, in a header phase and in SYNC. -/
theorem witness_ReadFrameDeadline :
    (readingFrame { reading .lenL 0x00#8 with deadline := 5#32, elapsed := 5#32 } ∧
      ({ reading .lenL 0x00#8 with deadline := 5#32, elapsed := 5#32 } : State).phase ≠ .idle ∧
      (5#32).toNat ≤ (5#32).toNat) ∧
    readingFrame { reading .sync 0x00#8 with deadline := 0#32 } := by
  unfold readingFrame
  decide

theorem witness_ReadFrameWaits : readingFrame (running 5#32 State.reset []) ∧
    (running 5#32 State.reset []).elapsed.toNat < (running 5#32 State.reset []).deadline.toNat ∧
    (running 5#32 State.reset []).input.rxValid = false := by
  unfold readingFrame
  decide

/-- Idle; busy with a command that completes at the abort edge; busy with one that does not; busy with an undefined word. -/
theorem witness_AbortEndsTheExecutingCommand :
    State.reset.busy = false ∧
    ((running 0#32 State.reset []).busy = true ∧ decode (latchedWord (running 0#32 State.reset [])) = .ok .nop ∧
      (engineStep (running 0#32 State.reset [])).busy = false) ∧
    (running 5#32 State.reset []).busy = true ∧ decode (latchedWord (running 5#32 State.reset [])) = .ok .readFrame ∧
      (engineStep (running 5#32 State.reset [])).busy = true := by decide

theorem witness_AbortEndsTheExecutingCommand_illegal :
    (running 8#32 State.reset []).busy = true ∧ (running 8#32 State.reset []).pendErr = .illegal ∧
    ∃ e, decode (latchedWord (running 8#32 State.reset [])) = .error e := ⟨by decide, by decide, .reservedOpcode 0x08#8, by decide⟩

theorem witness_OnlyAPayloadByteChangesABuffer :
    ∃ t, exec .readFrame paying = .next t ∧ bufRead t .rx 0 ≠ bufRead paying .rx 0 := ⟨_, rfl, by decide⟩

theorem witness_OnlyAPayloadByteChangesABuffer_abort :
    ∃ t, exec .abort paying = .next t ∧ bufRead t .rx 0 ≠ bufRead paying .rx 0 := by
  refine ⟨abortEdge paying, rfl, ?_⟩
  have hm : (abortEdge paying).mem = (engineStep paying).mem := (abortEdge_kept paying).2.2.2.1
  have hk := (abortEdge_kept paying).1
  have hr : bufRead (abortEdge paying) .rx 0 = bufRead (engineStep paying) .rx 0 :=
    bufRead_congr _ _ _ _ (hk.txbufCap.trans (engineStep_kept paying).1.txbufCap.symm)
      (hk.rxbufCap.trans (engineStep_kept paying).1.rxbufCap.symm) hm
      (hk.epoch.trans (engineStep_kept paying).1.epoch.symm)
  rw [hr]
  decide

/-- The last register, the first word past the registers, and the last word of each window. -/
theorem witness_AddressMap :
    locate 0x00040#18 = .reg .caps ∧ locate 0x00044#18 = .unmapped ∧ locate 0x0FFFC#18 = .unmapped ∧
    locate 0x10000#18 = .buf .tx 0 ∧ locate 0x1FFFC#18 = .buf .tx 0xFFFC ∧ locate 0x2FFFC#18 = .buf .rx 0xFFFC ∧
    locate 0x30000#18 = .unmapped ∧ locate 0x3FFFF#18 = .unmapped := by decide

/-- A busy edge at which the host writes DEADLINE. -/
def busyWrite : State := running 5#32 State.reset [hostWrites 0x00010#18 7#32]

theorem witness_OperandsAreStableWhileBusy :
    ∃ t, busyWrite.busy = true ∧ busyWrite.input.rst = false ∧ step busyWrite = .next t ∧
      busyWrite.input.host = .write 0x00010#18 7#32 ∧ locate 0x00010#18 ≠ .reg .cfg :=
  ⟨_, by decide, by decide, rfl, by decide, by decide⟩

/-- CT5: a busy edge at which the host writes CFG sets IE, keeps MARKER and does not set BWE. -/
theorem witness_OperandsAreStableWhileBusy_cfg :
    ∃ t, (running 5#32 State.reset [hostWrites 0x00004#18 0x00001201#32]).busy = true ∧
      (running 5#32 State.reset [hostWrites 0x00004#18 0x00001201#32]).input.host = .write 0x00004#18 0x00001201#32 ∧
      locate 0x00004#18 = .reg .cfg ∧
      step (running 5#32 State.reset [hostWrites 0x00004#18 0x00001201#32]) = .next t ∧
      t.ie = true ∧ t.marker = 0x5F#8 ∧ t.bwe = false :=
  ⟨_, by decide, by decide, by decide, rfl, by decide, by decide, by decide⟩

theorem busyWrite_is_dropped : dropsWrite busyWrite :=
  ⟨by decide, 0x00010#18, 7#32, by decide, .inr (.inl (by decide))⟩

theorem witness_BweIsSetByDroppedWrites :
    ∃ t, busyWrite.input.rst = false ∧ step busyWrite = .next t ∧ dropsWrite busyWrite ∧ t.bwe = true :=
  ⟨_, by decide, rfl, busyWrite_is_dropped, by decide⟩

theorem witness_DroppedWriteChangesOnlyBwe :
    ∃ t u, dropsWrite busyWrite ∧ busyWrite.input.rst = false ∧ step (withoutHost busyWrite) = .next t ∧
      step busyWrite = .next u :=
  ⟨_, _, busyWrite_is_dropped, by decide, rfl, rfl⟩

/-- A busy write to an unmapped word, and one to a read-only register. -/
theorem witness_ReadOnlyAndUnmappedWritesAreIgnored :
    locate 0x30000#18 = .unmapped ∧
    (running 5#32 State.reset [hostWrites 0x30000#18 1#32]).input.host = .write 0x30000#18 1#32 ∧
    (running 5#32 State.reset [hostWrites 0x00040#18 1#32]).input.host = .write 0x00040#18 1#32 ∧
    locate 0x00040#18 ∈ [Loc.unmapped, .reg .id, .reg .elapsed, .reg .txCnt, .reg .rxLen, .reg .rxCnt, .reg .rxChk,
      .reg .rxTotal, .reg .res, .reg .tlvRes, .reg .caps] := by decide

/-- One address for each clause. -/
theorem witness_IdleRegisterWrite :
    ((start [hostWrites 0x00010#18 9#32]).busy = false ∧ (start [hostWrites 0x00010#18 9#32]).input.rst = false ∧
      (start [hostWrites 0x00010#18 9#32]).input.host = .write 0x00010#18 9#32) ∧
    locate 0x00010#18 = .reg .deadline ∧ locate 0x00018#18 = .reg .txLen ∧ locate 0x00030#18 = .reg .winBase ∧
    locate 0x00034#18 = .reg .winLen ∧ locate 0x00004#18 = .reg .cfg ∧ locate 0x0000C#18 = .reg .status := by decide

/-- A word that straddles the capacity: 254 bytes, word 252. -/
theorem witness_IdleBufferWordWrite :
    ({ start [hostWrites 0x200FC#18 9#32] with rxbufCap := 254#16 } : State).busy = false ∧
    ({ start [hostWrites 0x200FC#18 9#32] with rxbufCap := 254#16 } : State).input.rst = false ∧
    ({ start [hostWrites 0x200FC#18 9#32] with rxbufCap := 254#16 } : State).input.host = .write 0x200FC#18 9#32 ∧
    locate 0x200FC#18 = .buf .rx 252 := by decide

theorem witness_IdleEdgeChangesNothing :
    (State.reset.busy = false ∧ State.reset.input.rst = false ∧ State.reset.input.host = .none) ∧
    (start [{ Input.quiet with host := .read 0#18 }]).busy = false ∧
    (start [{ Input.quiet with host := .read 0#18 }]).input.rst = false ∧
    (start [{ Input.quiet with host := .read 0#18 }]).input.host = .read 0#18 := by decide

/-- A host read at a busy edge and at a reset edge. -/
theorem witness_IdleEdgeChangesNothing_read :
    ((running 5#32 State.reset [{ Input.quiet with host := .read 0xC#18 }]).busy = true ∧
      (running 5#32 State.reset [{ Input.quiet with host := .read 0xC#18 }]).input.host = .read 0xC#18) ∧
    (running 5#32 State.reset [{ Input.quiet with rst := true, host := .read 0xC#18 }]).input.rst = true ∧
      (running 5#32 State.reset [{ Input.quiet with rst := true, host := .read 0xC#18 }]).input.host = .read 0xC#18 := by
  decide

/-- A completion edge at which the host clears DONE. -/
theorem witness_CompletionIsNeverLost :
    ∃ t, (running 0#32 State.reset [hostWrites 0x0000C#18 2#32]).busy = true ∧
      (running 0#32 State.reset [hostWrites 0x0000C#18 2#32]).input.rst = false ∧
      step (running 0#32 State.reset [hostWrites 0x0000C#18 2#32]) = .next t ∧ t.busy = false :=
  ⟨_, by decide, by decide, rfl, by decide⟩

theorem witness_RxTotalCountsHandshakes :
    ∃ t, (reading .sync 0x55#8).busy = true ∧ (reading .sync 0x55#8).input.rst = false ∧
      step (reading .sync 0x55#8) = .next t ∧ rxReady (reading .sync 0x55#8) = true ∧
      (reading .sync 0x55#8).input.rxValid = true :=
  ⟨_, by decide, by decide, rfl, by decide, by decide⟩

theorem witness_TxByteIsStableUntilHandover :
    ∃ t, txValid (running 6#32 State.reset []) = true ∧ (running 6#32 State.reset []).input.txReady = false ∧
      (running 6#32 State.reset []).input.undisturbing ∧ step (running 6#32 State.reset []) = .next t :=
  ⟨_, by decide, by decide, ⟨by decide, by decide⟩, rfl⟩

/-! Witnesses of the statements about runs. -/

theorem quiet_undisturbing : Input.quiet.undisturbing := ⟨by decide, by decide⟩

theorem presents_bytes (bs : List Byte) : presents (bs.map rxByte) bs := by
  induction bs with
  | nil => exact .nil
  | cons b bs ih => exact .cons ⟨⟨rfl, by show none ≠ some abortWord; decide⟩, rfl, rfl⟩ ih

theorem tickCount_bytes (bs : List Byte) : tickCount (bs.map rxByte) = 0 := by
  induction bs with
  | nil => rfl
  | cons b bs ih => simp [tickCount, rxByte, Input.quiet]

theorem witness_DcsGenRunsForItsLatency :
    accept (encode (.dcsGen .tx)) (start [Input.quiet]) = accept (encode (.dcsGen .tx)) (start [Input.quiet]) ∧
    (accept (encode (.dcsGen .tx)) (start [Input.quiet])).winBase.toNat +
      (accept (encode (.dcsGen .tx)) (start [Input.quiet])).winLen.toNat ≤
        cap (accept (encode (.dcsGen .tx)) (start [Input.quiet])) .tx ∧
    (accept (encode (.dcsGen .tx)) (start [Input.quiet])).inputs = [Input.quiet] ++ [] ∧
    [Input.quiet].length = (accept (encode (.dcsGen .tx)) (start [Input.quiet])).latLeft ∧
    ∀ i ∈ [Input.quiet], i.undisturbing :=
  ⟨rfl, by decide, by decide, by decide, fun i hi => by rw [List.mem_singleton.mp hi]; exact quiet_undisturbing⟩

/-- An empty payload, and a script of eight cycles with `tx_ready`. -/
def sending : State := accept (encode .writeFrame) (start (List.replicate 8 txReadyCycle))

theorem sending_script :
    (start (List.replicate 8 txReadyCycle)).txLen.toNat ≤ (start (List.replicate 8 txReadyCycle)).txbufCap.toNat ∧
    sending.inputs = List.replicate 8 txReadyCycle ++ [] ∧
    (List.replicate 8 txReadyCycle).length = (start (List.replicate 8 txReadyCycle)).txLen.toNat + 8 ∧
    ∀ i ∈ List.replicate 8 txReadyCycle, i.undisturbing ∧ i.txReady = true :=
  ⟨by decide, by decide, by decide, fun i hi => by
    rw [(List.mem_replicate.mp hi).2]; exact ⟨⟨by decide, by decide⟩, by decide⟩⟩

theorem witness_WriteFrameSendsTheDataFrame :
    sending = accept (encode .writeFrame) (start (List.replicate 8 txReadyCycle)) ∧
    sending.inputs = List.replicate 8 txReadyCycle ++ [] ∧
    ∀ i ∈ List.replicate 8 txReadyCycle, i.undisturbing ∧ i.txReady = true :=
  ⟨rfl, sending_script.2.1, sending_script.2.2.2⟩

/-- A script that presents `bs` to a READ_FRAME accepted from reset. -/
def receiving (bs : List Byte) : State := accept (encode .readFrame) (start (bs.map rxByte))

theorem receiving_script (bs : List Byte) : (receiving bs).inputs = bs.map rxByte ++ [] := by
  rw [List.append_nil]; rfl

/-- Garbage that ends like a preamble, then the frame of the payload D5 03. -/
theorem witness_ReadFrameReceivesADataFrame :
    [0xD5#8, 0x03#8].length ≤ (start []).rxbufCap.toNat ∧ ¬ preamblePattern <:+: [0x12#8, 0x00#8] ∧
    (receiving ([0x12#8, 0x00#8] ++ dataFrame [0xD5#8, 0x03#8])).inputs =
      ([0x12#8, 0x00#8] ++ dataFrame [0xD5#8, 0x03#8]).map rxByte ++ [] ∧
    presents (([0x12#8, 0x00#8] ++ dataFrame [0xD5#8, 0x03#8]).map rxByte)
      ([0x12#8, 0x00#8] ++ dataFrame [0xD5#8, 0x03#8]) ∧
    tickCount (([0x12#8, 0x00#8] ++ dataFrame [0xD5#8, 0x03#8]).map rxByte) < (start []).deadline.toNat := by
  refine ⟨by decide, by decide, receiving_script _, presents_bytes _, ?_⟩
  rw [tickCount_bytes]
  decide

theorem witness_ReadFrameReceivesAnAck :
    ¬ preamblePattern <:+: [0x12#8, 0x00#8] ∧
    (receiving ([0x12#8, 0x00#8] ++ ackFrame)).inputs = ([0x12#8, 0x00#8] ++ ackFrame).map rxByte ++ [] ∧
    presents (([0x12#8, 0x00#8] ++ ackFrame).map rxByte) ([0x12#8, 0x00#8] ++ ackFrame) ∧
    tickCount (([0x12#8, 0x00#8] ++ ackFrame).map rxByte) < (start []).deadline.toNat := by
  refine ⟨by decide, receiving_script _, presents_bytes _, ?_⟩
  rw [tickCount_bytes]
  decide

/-- DEADLINE = 0 and a script of one cycle with a tick and no byte. -/
theorem witness_ReadFrameTimesOut :
    (accept (encode .readFrame) { start [{ Input.quiet with tick := true }] with deadline := 0#32 }).inputs =
      [{ Input.quiet with tick := true }] ++ [] ∧
    [{ Input.quiet with tick := true }].length =
      ({ start [{ Input.quiet with tick := true }] with deadline := 0#32 } : State).deadline.toNat + 1 ∧
    ∀ i ∈ [{ Input.quiet with tick := true }], i.undisturbing ∧ i.rxValid = false ∧ i.tick = true :=
  ⟨by decide, by decide, fun i hi => by
    rw [List.mem_singleton.mp hi]; exact ⟨⟨by decide, by decide⟩, by decide, by decide⟩⟩

/-- The frame of an empty payload, sent by one machine and presented to another. -/
theorem witness_FrameRoundTrip :
    ∃ w', runsTo 8 sending w' ∧ w'.txSent.drop sending.txSent.length = dataFrame [] ∧
      presents ((dataFrame []).map rxByte) ([] ++ w'.txSent.drop sending.txSent.length) ∧
      ¬ preamblePattern <:+: [] ∧ (receiving (dataFrame [])).inputs = (dataFrame []).map rxByte ++ [] ∧
      tickCount ((dataFrame []).map rxByte) < (start []).deadline.toNat := by
  refine ⟨_, rfl, by decide, presents_bytes (dataFrame []), by decide, receiving_script _, ?_⟩
  rw [tickCount_bytes]
  decide

end Sys2Proof.Tests
end

section
/-! SUPPORT. What the edge's shared operations do, as the statements about the state need it: which opcode names the
executing command, what the host's transaction does to each register it can write, and what every edge keeps. -/

namespace Sys2Proof.Machine

/-! The executing command and its opcode (44_control.md R208). -/

/-- The buffer that a window command selects. -/
def selected : Instr → Option Sel
  | .dcsGen sel => some sel
  | .findTag _ sel => some sel
  | _ => none

/-- The executing command has the opcode in OP, and a window command selects its buffer by bit 8 of ARG
(30_encoding.md R84, R85, R87). -/
theorem executing_fields (s : State) (i : Instr) (h : executing s = some i) :
    s.op = opcodeOf (encode i) ∧ ∀ sel, selected i = some sel → Sel.ofBit (s.arg.getLsbD 8) = sel := by
  unfold executing at h
  iterate 8 rw [ite_eq_iff] at h
  rcases h with ⟨op, h⟩ | ⟨-, ⟨op, h⟩ | ⟨-, ⟨op, h⟩ | ⟨-, ⟨op, h⟩ | ⟨-, ⟨op, h⟩ | ⟨-, ⟨op, h⟩ | ⟨-, ⟨op, h⟩ | ⟨-,
    ⟨op, h⟩ | ⟨-, h⟩⟩⟩⟩⟩⟩⟩⟩
  case inr.inr.inr.inr.inr.inr.inr.inr => cases h
  all_goals obtain rfl := Option.some.inj h
  · exact ⟨op, nofun⟩
  · exact ⟨op.trans (opcodeOf_encode_lcsGen _).symm, nofun⟩
  · exact ⟨op.trans (opcodeOf_encode_dcsGen _).symm, fun _ hs => Option.some.inj hs⟩
  · exact ⟨op.trans (opcodeOf_encode_preStep _).symm, nofun⟩
  · exact ⟨op, nofun⟩
  · exact ⟨op, nofun⟩
  · exact ⟨op, nofun⟩
  · exact ⟨op.trans (opcodeOf_encode_findTag _ _).symm, fun _ hs => Option.some.inj hs⟩

theorem op_of_executing (s : State) (i : Instr) (h : executing s = some i) : s.op = opcodeOf (encode i) :=
  (executing_fields s i h).1

theorem sel_of_executing (s : State) (i : Instr) (sel : Sel) (h : executing s = some i) (hs : selected i = some sel) :
    Sel.ofBit (s.arg.getLsbD 8) = sel :=
  (executing_fields s i h).2 sel hs

theorem executing_readFrame (s : State) (h : s.op = 0x05#8) : executing s = some .readFrame := by simp [executing, h]

theorem executing_writeFrame (s : State) (h : s.op = 0x06#8) : executing s = some .writeFrame := by
  simp [executing, h]

/-- The opcodes 0x02 and 0x07 name the two window commands. -/
theorem executing_window (s : State) (h : s.op = 0x02#8 ∨ s.op = 0x07#8) :
    executing s = some (.dcsGen (Sel.ofBit (s.arg.getLsbD 8))) ∨
    ∃ tag, executing s = some (.findTag tag (Sel.ofBit (s.arg.getLsbD 8))) := by
  rcases h with h | h <;> simp [executing, h]

/-- ILLEGAL in PEND_ERR is what the edge completes with, whatever OP names (44_control.md R202, R206). -/
theorem engineStep_of_illegal (s : State) (h : s.pendErr = .illegal) : engineStep s = finish .illegal s := by
  have hc := engineStep_cases s
  generalize engineStep s = t at hc
  cases hc with
  | pending => rw [h]
  | illegal => rfl
  | _ => simp_all

/-! The host's transaction (20_memory.md R60, R77; 60_exceptions.md R234). -/

/-- An address and a word whose write is dropped while BUSY = 1 (20_memory.md R77, 44_control.md R201). -/
def DropsWhenBusy (a : Addr) (v : Word) : Prop :=
  (∃ sel i, locate a = .buf sel i) ∨
  locate a ∈ [Loc.reg .deadline, Loc.reg .txLen, Loc.reg .winBase, Loc.reg .winLen] ∨
  locate a = .reg .cmd ∧ v ≠ abortWord

theorem dropsWrite_iff (s : State) :
    dropsWrite s ↔ s.busy = true ∧ ∃ a v, s.input.host = .write a v ∧ DropsWhenBusy a v := Iff.rfl

/-- BWE after a host write: set by a dropped one, cleared by a one in bit 3 of STATUS (10_state.md R24, R28). -/
theorem hostWrite_bwe (busy completed : Bool) (a : Addr) (v : Word) (s : State) :
    (hostWrite busy completed a v s).bwe = true ↔
      busy = true ∧ DropsWhenBusy a v ∨ s.bwe = true ∧ ¬ (locate a = .reg .status ∧ v.getLsbD 3 = true) := by
  unfold hostWrite DropsWhenBusy
  cases locate a with
  | unmapped => simp
  | buf sel i => cases busy <;> simp
  | reg r => cases r <;> cases busy <;> simp [writeReg]; by_cases hv : v = abortWord <;> simp [hv]

/-- CFG.IE after a host write: bit 0 of a word written to CFG, busy or not (10_state.md R22). -/
theorem hostWrite_ie (busy completed : Bool) (a : Addr) (v : Word) (s : State) :
    (hostWrite busy completed a v s).ie = if locate a = .reg .cfg then v.getLsbD 0 else s.ie := by
  unfold hostWrite
  cases locate a with
  | unmapped => simp
  | buf sel i => cases busy <;> simp
  | reg r => cases r <;> cases busy <;> simp [writeReg]; split <;> rfl

/-- A CFG write never drops anything (20_memory.md R77). -/
theorem hostWrite_cfg_bwe (busy completed : Bool) (a : Addr) (v : Word) (s : State) (h : locate a = .reg .cfg) :
    (hostWrite busy completed a v s).bwe = s.bwe := by
  cases busy <;> simp [hostWrite, h, writeReg]

/-- The capacities are parameters: no host transaction writes them (00_scope.md R7). -/
theorem hostWrite_caps (busy completed : Bool) (a : Addr) (v : Word) (s : State) :
    (hostWrite busy completed a v s).txbufCap = s.txbufCap ∧
    (hostWrite busy completed a v s).rxbufCap = s.rxbufCap := by
  cases busy with
  | true => obtain ⟨_, _, _, e, _⟩ := hostWrite_busy completed a v s; rw [e]; exact ⟨rfl, rfl⟩
  | false =>
    rcases hostWrite_idle completed a v s with ⟨_, _, _, _, _, _, _, _, e, _⟩ | ⟨sel, i, e⟩ <;> rw [e] <;> simp

/-- An edge at which the host does nothing. -/
theorem endEdge_noHost (pre post : State) (h : pre.input.host = .none) :
    endEdge pre post = { post with inputs := pre.inputs.tail, hostReads := pre.hostReads } := by
  simp [endEdge, hostEffect, readWords, h]

/-- An edge at which the host writes. -/
theorem endEdge_write (pre post : State) (a : Addr) (v : Word) (h : pre.input.host = .write a v) :
    endEdge pre post = { hostWrite pre.busy (pre.busy && !post.busy) a v post with
      inputs := pre.inputs.tail, hostReads := pre.hostReads } := by
  simp [endEdge, hostEffect, readWords, h]

/-- An idle edge at which the host writes CMD: the acceptance is all that the write does (44_control.md R200). -/
theorem endEdge_idle_cmd (pre post : State) (w : Word) (hb : pre.busy = false)
    (h : cmdWord pre.input.host = some w) :
    endEdge pre post = { post with inputs := pre.inputs.tail, hostReads := pre.hostReads } := by
  cases hh : pre.input.host with
  | none => exact endEdge_noHost pre post hh
  | read a => simp [hh, cmdWord] at h
  | write a v =>
    have hl : locate a = .reg .cmd := by
      by_contra hn
      simp [hh, cmdWord, hn] at h
    rw [endEdge_write pre post a v hh]
    simp [hostWrite, hl, writeReg, hb]

/-- The capacities at the end of an edge. -/
theorem endEdge_caps (pre post : State) :
    (endEdge pre post).txbufCap = post.txbufCap ∧ (endEdge pre post).rxbufCap = post.rxbufCap := by
  simp only [endEdge, hostEffect]
  split
  · exact ⟨rfl, rfl⟩
  · exact ⟨rfl, rfl⟩
  · exact hostWrite_caps _ _ _ _ post

/-- BWE at the end of an edge. -/
theorem endEdge_bwe (pre post : State) :
    (endEdge pre post).bwe = true ↔ dropsWrite pre ∨ post.bwe = true ∧ ¬ clearsBwe pre := by
  cases hh : pre.input.host with
  | none => simp [endEdge, hostEffect, hh, dropsWrite, clearsBwe]
  | read a => simp [endEdge, hostEffect, hh, dropsWrite, clearsBwe]
  | write a v =>
    rw [endEdge_write pre post a v hh, dropsWrite_iff, hostWrite_bwe]
    simp [hh, clearsBwe]

/-- CFG.IE at the end of an edge at which the host does not write CFG. -/
theorem endEdge_ie (pre post : State) (h : ∀ a v, pre.input.host = .write a v → locate a ≠ .reg .cfg) :
    (endEdge pre post).ie = post.ie := by
  cases hh : pre.input.host with
  | none => rw [endEdge_noHost pre post hh]
  | read a => simp [endEdge, hostEffect, hh]
  | write a v => rw [endEdge_write pre post a v hh, hostWrite_ie, if_neg (h a v hh)]

/-! What every edge without reset keeps. -/

/-- What an acceptance leaves of the registers that it latches or never writes: OP, ARG and PEND_ERR as latched, the
capacities, BWE, the buffers and TLV_RES as they were (44_control.md R200). -/
structure Accepted (w : Word) (s t : State) : Prop where
  busy : t.busy = true
  op : t.op = opcodeOf w
  arg : t.arg = argOf w
  pendErr : t.pendErr = staticCheck s w
  txbufCap : t.txbufCap = s.txbufCap
  rxbufCap : t.rxbufCap = s.rxbufCap
  bwe : t.bwe = s.bwe
  mem : t.mem = s.mem
  tlvOff : t.tlvOff = s.tlvOff
  tlvLen : t.tlvLen = s.tlvLen
  tlvFound : t.tlvFound = s.tlvFound

theorem accept_accepted (w : Word) (s : State) : Accepted w s (accept w s) := by
  rcases accept_cases w s with ⟨_, e⟩ | ⟨_, _, e⟩ | ⟨_, _, e⟩ | ⟨_, _, e⟩ | ⟨_, _, _, _, _, e⟩ <;> rw [e] <;>
    constructor <;> rfl

/-- The command's step of an edge keeps the capacities and BWE, which only the host's transaction sets. -/
theorem edgeResult_keeps (s t : State) (h : EdgeResult s t) :
    t.txbufCap = s.txbufCap ∧ t.rxbufCap = s.rxbufCap ∧ t.bwe = s.bwe := by
  have engine {u : State} (k : Kept s u) : u.txbufCap = s.txbufCap ∧ u.rxbufCap = s.rxbufCap ∧ u.bwe = s.bwe :=
    ⟨k.txbufCap, k.rxbufCap, k.bwe⟩
  have acceptance (w : Word) :
      (accept w s).txbufCap = s.txbufCap ∧ (accept w s).rxbufCap = s.rxbufCap ∧ (accept w s).bwe = s.bwe :=
    ⟨(accept_accepted w s).txbufCap, (accept_accepted w s).rxbufCap, (accept_accepted w s).bwe⟩
  cases h with
  | aborted => exact engine (abortEdge_kept s).1
  | executed => exact engine (engineStep_kept s).1
  | noCommand => exact ⟨rfl, rfl, rfl⟩
  | idleAbort => exact ⟨rfl, rfl, rfl⟩
  | accepted => exact acceptance _
  | acceptedIllegal => exact acceptance _

/-- At an edge that begins busy, the command's step writes none of the registers of `Kept`, and it ends BUSY only by
setting DONE. -/
theorem edgeResult_busy (s t : State) (h : EdgeResult s t) (hb : s.busy = true) :
    Kept s t ∧ (t.busy = false → t.done = true) ∧ t.mem = (engineStep s).mem := by
  cases h with
  | aborted =>
    obtain ⟨k, _, hd, hm, _⟩ := abortEdge_kept s
    exact ⟨k, fun _ => hd hb, hm⟩
  | executed =>
    obtain ⟨k, hd, _⟩ := engineStep_kept s
    exact ⟨k, hd hb, rfl⟩
  | noCommand idle => simp [hb] at idle
  | idleAbort idle => simp [hb] at idle
  | accepted idle => simp [hb] at idle
  | acceptedIllegal idle => simp [hb] at idle

/-- The executing command changes memory by at most one byte of RXBUF (41_frame_reader.md R137). -/
theorem engineStep_mem (s : State) :
    (engineStep s).mem = s.mem ∨ ∃ b, (engineStep s).mem = (bufWrite s .rx s.rxCnt.toNat b).mem := by
  obtain ⟨_, _, he⟩ := engineStep_kept s
  obtain ⟨_, _, _, hr⟩ := readFrameBody_kept s
  rw [he, hr]
  split
  · split
    · exact .inr ⟨_, rfl⟩
    · exact .inl rfl
  · exact .inl rfl

/-- No command changes a byte of TXBUF (20_memory.md R73). -/
theorem bufRead_tx_of_edge (s t : State) (htx : t.txbufCap = s.txbufCap) (hrx : t.rxbufCap = s.rxbufCap)
    (he : t.epoch = s.epoch) (hm : t.mem = (engineStep s).mem) (k : Nat) : bufRead t .tx k = bufRead s .tx k := by
  rcases engineStep_mem s with hs | ⟨b, hs⟩
  · exact bufRead_congr s t .tx k htx hrx (hm.trans hs) he
  · rw [bufRead_congr (bufWrite s .rx s.rxCnt.toNat b) t .tx k (by simpa using htx) (by simpa using hrx) (hm.trans hs)
      (by simpa using he)]
    exact bufRead_bufWrite_ne s .rx .tx _ k b (.inl nofun)

/-- A busy edge with no host transaction runs the executing command (44_control.md R208). -/
theorem step_busy_noHost (s : State) (hb : s.busy = true) (hr : s.input.rst = false) (hh : s.input.host = .none) :
    step s = .next { engineStep s with inputs := s.inputs.tail, hostReads := s.hostReads } := by
  obtain ⟨u, hu, hres⟩ := step_edge s hr
  rw [hu, endEdge_noHost s u hh]
  cases hres with
  | executed => rfl
  | aborted _ written => simp [hh, cmdWord] at written
  | noCommand idle => simp [hb] at idle
  | idleAbort idle => simp [hb] at idle
  | accepted idle => simp [hb] at idle
  | acceptedIllegal idle => simp [hb] at idle

/-- An idle edge at which the host writes, but not CMD, is the host's write alone (44_control.md R208). -/
theorem step_idle_write (s : State) (a : Addr) (v : Word) (hb : s.busy = false) (hr : s.input.rst = false)
    (hh : s.input.host = .write a v) (hl : locate a ≠ .reg .cmd) :
    step s = .next { hostWrite false false a v s with inputs := s.inputs.tail, hostReads := s.hostReads } := by
  have hc : cmdWord s.input.host = none := by simp [hh, cmdWord, hl]
  rw [step_of_no_fetch s hr (by simp [fetch, hb, hc]), endEdge_write s _ a v hh]
  simp [withoutCommand, hb, hc]

/-- Everything an idle edge's command can leave: the state as it was, or the acceptance of the word that the host writes
to CMD, which is not the ABORT word (44_control.md R200, R205). -/
theorem edgeResult_idle (s t : State) (h : EdgeResult s t) (hb : s.busy = false) :
    t = s ∨ ∃ w v, cmdWord s.input.host = some v ∧ w ≠ abortWord ∧ t = accept w s := by
  cases h with
  | aborted busy => simp [hb] at busy
  | executed busy => simp [hb] at busy
  | noCommand => exact .inl rfl
  | idleAbort => exact .inl rfl
  | accepted _ w i written dec ne =>
    refine .inr ⟨encode i, w, written, fun e => ne ?_, rfl⟩
    have hd := decode_encode i
    rw [e, show decode abortWord = .ok .abort from rfl] at hd
    injection hd with hd
    exact hd.symm
  | acceptedIllegal _ w e written dec =>
    refine .inr ⟨w, w, written, fun e => ?_, rfl⟩
    rw [e] at dec
    cases dec

end Sys2Proof.Machine
end

section
/-! SUPPORT. The host's address map, the words that the registers read as, and the words the decoder accepts. -/

namespace Sys2Proof.Machine

/-! The address map (20_memory.md R61, R62; 10_state.md R51). -/

/-- Every address reaches the word that holds it. -/
theorem locate_aligned (a : Addr) : locate a = locate (a &&& 0x3FFFC#18) := by
  have h : alignedAddr (a &&& 0x3FFFC#18) = alignedAddr a := by
    rw [alignedAddr, alignedAddr, BitVec.and_assoc, BitVec.and_self]
  unfold locate
  rw [h]

/-- The word at byte offset `4 * k` of the address space, by quarters of it. -/
theorem locate_ofNat (k : Nat) (h : k < 0x10000) :
    locate (BitVec.ofNat 18 (4 * k)) =
      if 4 * k < 0x10000 then locateReg (4 * k)
      else if 4 * k < 0x20000 then .buf .tx (4 * k - 0x10000)
      else if 4 * k < 0x30000 then .buf .rx (4 * k - 0x20000)
      else .unmapped := by
  have hw : (alignedAddr (BitVec.ofNat 18 (4 * k))).toNat = 4 * k := by
    rw [alignedAddr_toNat, BitVec.toNat_ofNat]
    omega
  simp only [locate, hw]

/-- A word of the register region past the last register is unmapped. -/
theorem locateReg_past (k : Nat) (h : 17 ≤ k) : locateReg (4 * k) = .unmapped := by
  have hlen : registerMap.length ≤ 4 * k / 4 := by
    rw [show registerMap.length = 17 from rfl]
    omega
  simp only [locateReg, List.getElem?_eq_none hlen]

/-! The registers as the host reads them (10_state.md R51). -/

theorem hostRead_of_reg (s : State) (a : Addr) (r : Reg) (h : locate a = .reg r) : hostRead s a = readReg s r := by
  simp [hostRead, h]

theorem hostRead_id (s : State) : hostRead s 0x00000#18 = Config.idWord := hostRead_of_reg s _ .id (by decide)
theorem hostRead_caps (s : State) : hostRead s 0x00040#18 = capsWord s := hostRead_of_reg s _ .caps (by decide)
theorem hostRead_cfg (s : State) : hostRead s 0x00004#18 = cfgWord s := hostRead_of_reg s _ .cfg (by decide)
theorem hostRead_status (s : State) : hostRead s 0x0000C#18 = statusWord s := hostRead_of_reg s _ .status (by decide)
theorem hostRead_rxChk (s : State) : hostRead s 0x00028#18 = rxChkWord s := hostRead_of_reg s _ .rxChk (by decide)
theorem hostRead_tlvRes (s : State) : hostRead s 0x0003C#18 = tlvResWord s := hostRead_of_reg s _ .tlvRes (by decide)

/-- A field of a word, bit by bit. -/
theorem extractLsb'_eq_of_bits {m n : Nat} (w : BitVec m) (lo : Nat) (x : BitVec n)
    (h : ∀ k, k < n → w.getLsbD (lo + k) = x.getLsbD k) : w.extractLsb' lo n = x := by
  apply BitVec.eq_of_getLsbD_eq
  intro k hk
  rw [BitVec.getLsbD_extractLsb', h k hk, decide_eq_true hk, Bool.true_and]

/-- STATUS bit by bit (10_state.md R24). -/
theorem getLsbD_statusWord (s : State) (k : Nat) (hk : k < 32) :
    (statusWord s).getLsbD k =
      if k = 0 then s.busy else if k = 1 then s.done else if k = 2 then s.isAck else if k = 3 then s.bwe
      else if k < 6 then s.sync.bits.getLsbD (k - 4) else if k < 8 then false
      else if k < 12 then s.err.bits.getLsbD (k - 8) else if k < 16 then s.phase.bits.getLsbD (k - 12)
      else if k < 24 then s.op.getLsbD (k - 16) else false := by
  refine BitVec.getLsbD_append.trans ?_
  simp only [BitVec.getLsbD_append, BitVec.getLsbD_ofBool, BitVec.getLsbD_zero]
  interval_cases k <;> simp only [Nat.reduceLT, Nat.reduceSub, Nat.reduceEqDiff, OfNat.ofNat_ne_zero, ↓reduceIte,
    decide_true, Bool.true_and]

/-- CFG bit by bit (10_state.md R22). -/
theorem getLsbD_cfgWord (s : State) (k : Nat) (hk : k < 32) :
    (cfgWord s).getLsbD k =
      if k = 0 then s.ie else if k < 8 then false else if k < 16 then s.marker.getLsbD (k - 8) else false := by
  refine BitVec.getLsbD_append.trans ?_
  simp only [BitVec.getLsbD_append, BitVec.getLsbD_ofBool, BitVec.getLsbD_zero]
  interval_cases k <;> simp only [Nat.reduceLT, Nat.reduceSub, Nat.reduceEqDiff, OfNat.ofNat_ne_zero, ↓reduceIte,
    decide_true, Bool.true_and]

/-- RX_CHK bit by bit (10_state.md R39). -/
theorem getLsbD_rxChkWord (s : State) (k : Nat) (hk : k < 32) :
    (rxChkWord s).getLsbD k =
      if k < 8 then s.lcsRx.getLsbD k else if k < 16 then s.dcsRx.getLsbD (k - 8)
      else if k < 24 then s.postRx.getLsbD (k - 16) else s.dcsCalc.getLsbD (k - 24) := by
  refine BitVec.getLsbD_append.trans ?_
  simp only [BitVec.getLsbD_append]
  interval_cases k <;> simp only [Nat.reduceLT, Nat.reduceSub, ↓reduceIte]

/-- TLV_RES bit by bit (10_state.md R44). -/
theorem getLsbD_tlvResWord (s : State) (k : Nat) (hk : k < 32) :
    (tlvResWord s).getLsbD k =
      if k < 16 then s.tlvOff.getLsbD k else if k < 24 then s.tlvLen.getLsbD (k - 16)
      else if k = 24 then s.tlvFound else false := by
  refine BitVec.getLsbD_append.trans ?_
  simp only [BitVec.getLsbD_append, BitVec.getLsbD_ofBool, BitVec.getLsbD_zero]
  interval_cases k <;> simp only [Nat.reduceLT, Nat.reduceSub, Nat.reduceEqDiff, ↓reduceIte,
    decide_true, Bool.true_and]

/-- The fields of STATUS of more than one bit (10_state.md R24, R29 to R32). -/
theorem statusWord_fields (s : State) :
    (statusWord s).extractLsb' 4 2 = s.sync.bits ∧ (statusWord s).extractLsb' 6 2 = 0#2 ∧
    (statusWord s).extractLsb' 8 4 = s.err.bits ∧ (statusWord s).extractLsb' 12 4 = s.phase.bits ∧
    (statusWord s).extractLsb' 16 8 = s.op ∧ (statusWord s).extractLsb' 24 8 = 0#8 := by
  refine ⟨?_, ?_, ?_, ?_, ?_, ?_⟩ <;> refine extractLsb'_eq_of_bits _ _ _ fun k hk => ?_ <;>
    rw [getLsbD_statusWord s _ (by omega)] <;> interval_cases k <;> rfl

/-- The fields of CFG. -/
theorem cfgWord_fields (s : State) :
    (cfgWord s).extractLsb' 1 7 = 0#7 ∧ (cfgWord s).extractLsb' 8 8 = s.marker ∧
    (cfgWord s).extractLsb' 16 16 = 0#16 := by
  refine ⟨?_, ?_, ?_⟩ <;> refine extractLsb'_eq_of_bits _ _ _ fun k hk => ?_ <;>
    rw [getLsbD_cfgWord s _ (by omega)] <;> interval_cases k <;> rfl

/-- The fields of RX_CHK. -/
theorem rxChkWord_fields (s : State) :
    (rxChkWord s).extractLsb' 0 8 = s.lcsRx ∧ (rxChkWord s).extractLsb' 8 8 = s.dcsRx ∧
    (rxChkWord s).extractLsb' 16 8 = s.postRx ∧ (rxChkWord s).extractLsb' 24 8 = s.dcsCalc := by
  refine ⟨?_, ?_, ?_, ?_⟩ <;> refine extractLsb'_eq_of_bits _ _ _ fun k hk => ?_ <;>
    rw [getLsbD_rxChkWord s _ (by omega)] <;> interval_cases k <;> rfl

/-- The fields of TLV_RES. -/
theorem tlvResWord_fields (s : State) :
    (tlvResWord s).extractLsb' 0 16 = s.tlvOff ∧ (tlvResWord s).extractLsb' 16 8 = s.tlvLen ∧
    (tlvResWord s).extractLsb' 25 7 = 0#7 := by
  refine ⟨?_, ?_, ?_⟩ <;> refine extractLsb'_eq_of_bits _ _ _ fun k hk => ?_ <;>
    rw [getLsbD_tlvResWord s _ (by omega)] <;> interval_cases k <;> rfl

/-! Defined words (30_encoding.md R87, R88). -/

/-- What a word that decodes holds: the opcode, and 0 in every bit that the format does not name (R81 to R87). -/
inductive DecodeResult (w : Word) : Instr → Prop
  | nop (op : opcodeOf w = 0x00#8) (zero : w.extractLsb' 8 24 = 0#24) : DecodeResult w .nop
  | lcsGen (op : opcodeOf w = 0x01#8) (zero : w.extractLsb' 24 8 = 0#8) :
      DecodeResult w (.lcsGen (w.extractLsb' 8 16))
  | dcsGen (op : opcodeOf w = 0x02#8) (zero : w.extractLsb' 17 15 = 0#15) (zero' : w.extractLsb' 8 8 = 0#8) :
      DecodeResult w (.dcsGen (Sel.ofBit (w.getLsbD 16)))
  | preStep (op : opcodeOf w = 0x03#8) (zero : w.extractLsb' 16 16 = 0#16) :
      DecodeResult w (.preStep (w.extractLsb' 8 8))
  | preClr (op : opcodeOf w = 0x04#8) (zero : w.extractLsb' 8 24 = 0#24) : DecodeResult w .preClr
  | readFrame (op : opcodeOf w = 0x05#8) (zero : w.extractLsb' 8 24 = 0#24) : DecodeResult w .readFrame
  | writeFrame (op : opcodeOf w = 0x06#8) (zero : w.extractLsb' 8 24 = 0#24) : DecodeResult w .writeFrame
  | findTag (op : opcodeOf w = 0x07#8) (zero : w.extractLsb' 17 15 = 0#15) :
      DecodeResult w (.findTag (w.extractLsb' 8 8) (Sel.ofBit (w.getLsbD 16)))
  | abort (op : opcodeOf w = 0x0F#8) (zero : w.extractLsb' 8 24 = 0#24) : DecodeResult w .abort

theorem ifReservedZero_ok (zero : Bool) (w : Word) (i j : Instr) :
    ifReservedZero zero w i = .ok j ↔ zero = true ∧ i = j := by
  cases zero <;> simp [ifReservedZero]

theorem decode_cases (w : Word) (i : Instr) (h : decode w = .ok i) : DecodeResult w i := by
  unfold decode at h
  iterate 9 rw [ite_eq_iff] at h
  rcases h with ⟨op, h⟩ | ⟨-, ⟨op, h⟩ | ⟨-, ⟨op, h⟩ | ⟨-, ⟨op, h⟩ | ⟨-, ⟨op, h⟩ | ⟨-, ⟨op, h⟩ | ⟨-, ⟨op, h⟩ | ⟨-,
    ⟨op, h⟩ | ⟨-, ⟨op, h⟩ | ⟨-, h⟩⟩⟩⟩⟩⟩⟩⟩⟩
  case inr.inr.inr.inr.inr.inr.inr.inr.inr => cases h
  all_goals
    simp only [formatN, formatL, formatB, formatS, formatT, ifReservedZero_ok, beq_iff_eq, Bool.and_eq_true] at h
    obtain ⟨zero, rfl⟩ := h
  · exact .nop op zero
  · exact .lcsGen op zero
  · exact .dcsGen op zero.1 zero.2
  · exact .preStep op zero
  · exact .preClr op zero
  · exact .readFrame op zero
  · exact .writeFrame op zero
  · exact .findTag op zero
  · exact .abort op zero

/-- The ABORT word is the one word that decodes to ABORT (30_encoding.md R89). -/
theorem eq_abortWord_of_decode (w : Word) (h : decode w = .ok .abort) : w = abortWord := by
  have hw : argOf w ++ opcodeOf w = w := latchedWord_latch State.reset w
  cases decode_cases w .abort h with
  | abort op zero =>
    rw [← hw, op, argOf, zero]
    rfl

theorem getLsbD_of_field_zero (w : Word) (lo n k : Nat) (h : w.extractLsb' lo n = 0#n) (hlo : lo ≤ k)
    (hhi : k < lo + n) : w.getLsbD k = false := by
  have hb := congrArg (·.getLsbD (k - lo)) h
  have hk : lo + (k - lo) = k := by omega
  have hn : k - lo < n := by omega
  simpa [BitVec.getLsbD_extractLsb', hk, hn] using hb

/-- A word belongs to a row of the opcode map when its opcode is the row's and its bits under the mask above the opcode
are 0. -/
theorem definedWord_of_row (w mask : Word) (opc : Byte) (name : String)
    (hrow : ⟨name, mask, opc.zeroExtend 32⟩ ∈ opcodeRows) (hlow : mask.extractLsb' 0 8 = 0xFF#8)
    (hop : opcodeOf w = opc) (hz : ∀ k, 8 ≤ k → k < 32 → mask.getLsbD k = true → w.getLsbD k = false) :
    definedWord w = true := by
  refine List.any_eq_true.mpr ⟨_, hrow, ?_⟩
  simp only [OpcodeRow.covers, beq_iff_eq]
  apply BitVec.eq_of_getLsbD_eq
  intro k hk
  by_cases h8 : k < 8
  · have hw : w.getLsbD k = opc.getLsbD k := by simp [← hop, opcodeOf, h8]
    have hm : mask.getLsbD k = true := by
      have hb := congrArg (·.getLsbD k) hlow
      interval_cases k <;> simpa using hb
    rw [BitVec.getLsbD_and, hw, hm, Bool.and_true, BitVec.getLsbD_setWidth, decide_eq_true hk, Bool.true_and]
  · have hp : opc.getLsbD k = false := BitVec.getLsbD_of_ge _ _ (by omega)
    cases hm : mask.getLsbD k with
    | false => simp [hm, hp]
    | true => simp [hm, hp, hz k (by omega) hk hm]

/-- The same of a row of format N, whose bits above the opcode are all 0 (R81). -/
theorem definedWord_of_formatN (w : Word) (opc : Byte) (name : String)
    (hrow : ⟨name, 0xFFFFFFFF#32, opc.zeroExtend 32⟩ ∈ opcodeRows) (hop : opcodeOf w = opc)
    (hz : w.extractLsb' 8 24 = 0#24) : definedWord w = true :=
  definedWord_of_row w _ opc name hrow rfl hop fun k hlo hhi _ => getLsbD_of_field_zero w 8 24 k hz hlo hhi

/-- The decoder accepts defined words only. -/
theorem definedWord_of_decode (w : Word) (i : Instr) (h : decode w = .ok i) : definedWord w = true := by
  cases decode_cases w i h with
  | nop op zero => exact definedWord_of_formatN w _ "NOP" (by decide) op zero
  | preClr op zero => exact definedWord_of_formatN w _ "PRE_CLR" (by decide) op zero
  | readFrame op zero => exact definedWord_of_formatN w _ "READ_FRAME" (by decide) op zero
  | writeFrame op zero => exact definedWord_of_formatN w _ "WRITE_FRAME" (by decide) op zero
  | abort op zero => exact definedWord_of_formatN w _ "ABORT" (by decide) op zero
  | lcsGen op zero =>
    refine definedWord_of_row w 0xFF0000FF#32 _ "LCS_GEN" (by decide) rfl op fun k hlo hhi hm => ?_
    have hk := (by decide : ∀ k < 32, 8 ≤ k → (0xFF0000FF#32).getLsbD k = true → 24 ≤ k) k hhi hlo hm
    exact getLsbD_of_field_zero w 24 8 k zero hk hhi
  | dcsGen op zero zero' =>
    refine definedWord_of_row w 0xFFFEFFFF#32 _ "DCS_GEN" (by decide) rfl op fun k hlo hhi hm => ?_
    rcases (by decide : ∀ k < 32, 8 ≤ k → (0xFFFEFFFF#32).getLsbD k = true → k < 16 ∨ 17 ≤ k) k hhi hlo hm with hk | hk
    · exact getLsbD_of_field_zero w 8 8 k zero' hlo hk
    · exact getLsbD_of_field_zero w 17 15 k zero hk hhi
  | preStep op zero =>
    refine definedWord_of_row w 0xFFFF00FF#32 _ "PRE_STEP" (by decide) rfl op fun k hlo hhi hm => ?_
    have hk := (by decide : ∀ k < 32, 8 ≤ k → (0xFFFF00FF#32).getLsbD k = true → 16 ≤ k) k hhi hlo hm
    exact getLsbD_of_field_zero w 16 16 k zero hk hhi
  | findTag op zero =>
    refine definedWord_of_row w 0xFFFE00FF#32 _ "FIND_TAG" (by decide) rfl op fun k hlo hhi hm => ?_
    have hk := (by decide : ∀ k < 32, 8 ≤ k → (0xFFFE00FF#32).getLsbD k = true → 17 ≤ k) k hhi hlo hm
    exact getLsbD_of_field_zero w 17 15 k zero hk hhi

end Sys2Proof.Machine
end

section
/-! SUPPORT. The invariant in parts: what does not depend on BUSY (the buffers, the latched command, TLV_RES), what
holds while a command executes, and what its completion leaves. Each part has its own rules; the invariant is their
conjunction. -/

namespace Sys2Proof.Machine

/-- The buffers: legal capacities, and a canonical memory of bytes that exist (00_scope.md R7, 20_memory.md R65). -/
structure BufferInv (s : State) : Prop where
  capsLegal : 0 < s.txbufCap.toNat ∧ 0 < s.rxbufCap.toNat
  memCanonical : s.mem.wf
  memExists : ∀ c ∈ s.mem, ∃ sel i, i < cap s sel ∧ c.1 = bufferBase sel + i

/-- The latched command: PEND_ERR is the static check's answer on it, and it is never ABORT (44_control.md R202,
R205). -/
structure LatchedInv (s : State) : Prop where
  pendErrKinds : s.pendErr = .ok ∨ s.pendErr = .range ∨ s.pendErr = .illegal
  pendErrIllegal : s.pendErr = .illegal ↔ ∃ e, decode (latchedWord s) = .error e
  abortNeverLatched : latchedWord s ≠ abortWord

/-- TLV_RES is 0 or a slice of a buffer (43_tlv.md R184). -/
structure SliceInv (s : State) : Prop where
  found : s.tlvFound = true → ∃ sel, s.tlvOff.toNat + s.tlvLen.toNat ≤ cap s sel
  notFound : s.tlvFound = false → s.tlvOff = 0#16 ∧ s.tlvLen = 0#8

/-- A window command that passed its check has a legal window and completes within its latency (44_control.md R207). -/
def windowInv (s : State) : Prop :=
  s.pendErr = .ok → s.op = 0x02#8 ∨ s.op = 0x07#8 →
    windowLegal s (Sel.ofBit (s.arg.getLsbD 8)) = true ∧ 1 ≤ s.latLeft ∧ s.latLeft ≤ s.winLen.toNat + 1

/-- What holds while BUSY = 1. -/
structure RunningInv (s : State) : Prop where
  cleared : s.done = false ∧ s.err = .ok ∧ s.isAck = false
  elapsedBounded : s.op = 0x05#8 → s.pendErr = .ok → s.elapsed.toNat ≤ s.deadline.toNat
  reader : s.op = 0x05#8 → s.pendErr = .ok → readerInv s
  writer : s.op = 0x06#8 → s.pendErr = .ok →
    s.txLen.toNat ≤ s.txbufCap.toNat ∧ s.txCnt.toNat ≤ s.txLen.toNat + 7
  window : windowInv s

/-- What holds while BUSY = 0: IS_ACK, and RX_CNT, belong to the frame that READ_FRAME received (10_state.md R27,
R38). -/
structure IdleInv (s : State) : Prop where
  ackCompleted : s.isAck = true → s.op = 0x05#8 ∧ s.err = .ok ∧ s.phase = .ackPost
  received : s.op = 0x05#8 → s.pendErr = .ok → s.err = .ok →
    s.rxCnt = s.rxLen ∧ (s.isAck = true → s.rxLen = 0#16) ∧ (s.isAck = false → s.phase = .post ∧ s.dcsRx = s.dcsCalc)

/-- The invariant is its parts. -/
theorem inv_iff (s : State) :
    s.Inv ↔ BufferInv s ∧ LatchedInv s ∧ SliceInv s ∧ (s.busy = true → RunningInv s) ∧
      (s.busy = false → IdleInv s) := by
  constructor
  · intro h
    exact ⟨⟨h.capsLegal, h.memCanonical, h.memExists⟩, ⟨h.pendErrKinds, h.pendErrIllegal, h.abortNeverLatched⟩,
      ⟨h.tlvSlice.1, h.tlvSlice.2⟩,
      fun hb => ⟨h.busyClears hb, fun ho hp => h.elapsedBounded ⟨hb, ho, hp⟩, fun ho hp => h.reader ⟨hb, ho, hp⟩,
        fun ho hp => h.writer ⟨hb, ho, hp⟩, h.window hb⟩,
      fun hb => ⟨fun ha => (h.ackCompleted ha).2, h.received hb⟩⟩
  · rintro ⟨buf, lat, sl, run, idle⟩
    exact {
      capsLegal := buf.capsLegal
      memCanonical := buf.memCanonical
      memExists := buf.memExists
      busyClears := fun hb => (run hb).cleared
      pendErrKinds := lat.pendErrKinds
      pendErrIllegal := lat.pendErrIllegal
      abortNeverLatched := lat.abortNeverLatched
      ackCompleted := fun ha => by
        have hb : s.busy = false := by
          by_contra hb
          have hc := (run (by simpa using hb)).cleared.2.2
          simp [ha] at hc
        exact ⟨hb, (idle hb).ackCompleted ha⟩
      elapsedBounded := fun h => (run h.1).elapsedBounded h.2.1 h.2.2
      reader := fun h => (run h.1).reader h.2.1 h.2.2
      received := fun hb => (idle hb).received
      writer := fun h => (run h.1).writer h.2.1 h.2.2
      window := fun hb => (run hb).window
      tlvSlice := ⟨sl.found, sl.notFound⟩ }

theorem cap_congr (s t : State) (htx : t.txbufCap = s.txbufCap) (hrx : t.rxbufCap = s.rxbufCap) (sel : Sel) :
    cap t sel = cap s sel := by
  cases sel <;> simp [cap, htx, hrx]

/-! The buffers. -/

theorem BufferInv.congr {s t : State} (h : BufferInv s) (htx : t.txbufCap = s.txbufCap)
    (hrx : t.rxbufCap = s.rxbufCap) (hm : t.mem = s.mem) : BufferInv t where
  capsLegal := by rw [htx, hrx]; exact h.capsLegal
  memCanonical := by rw [hm]; exact h.memCanonical
  memExists := by simpa only [hm, cap_congr s t htx hrx] using h.memExists

/-- A buffer write lists a byte that exists, or nothing. -/
theorem BufferInv.bufWrite {s : State} (h : BufferInv s) (sel : Sel) (i : Nat) (v : Byte) :
    BufferInv (bufWrite s sel i v) where
  capsLegal := by simpa using h.capsLegal
  memCanonical := bufWrite_mem_wf s sel i v h.memCanonical
  memExists := by
    intro c hc
    simp only [cap_bufWrite]
    rw [bufWrite_mem] at hc
    split at hc
    · rename_i hi
      rcases memory_mem_write _ _ _ _ hc with rfl | hc
      · exact ⟨sel, i, hi, rfl⟩
      · exact h.memExists c hc
    · exact h.memExists c hc

theorem BufferInv.writeBufWord {s : State} (h : BufferInv s) (sel : Sel) (i : Nat) (v : Word) :
    BufferInv (writeBufWord s sel i v) :=
  (((h.bufWrite sel i _).bufWrite sel (i + 1) _).bufWrite sel (i + 2) _).bufWrite sel (i + 3) _

/-! The latched command and TLV_RES. -/

theorem LatchedInv.congr {s t : State} (h : LatchedInv s) (ho : t.op = s.op) (ha : t.arg = s.arg)
    (hp : t.pendErr = s.pendErr) : LatchedInv t where
  pendErrKinds := by rw [hp]; exact h.pendErrKinds
  pendErrIllegal := by rw [hp, latchedWord, ha, ho]; exact h.pendErrIllegal
  abortNeverLatched := by rw [latchedWord, ha, ho]; exact h.abortNeverLatched

theorem SliceInv.congr {s t : State} (h : SliceInv s) (htx : t.txbufCap = s.txbufCap) (hrx : t.rxbufCap = s.rxbufCap)
    (ho : t.tlvOff = s.tlvOff) (hl : t.tlvLen = s.tlvLen) (hf : t.tlvFound = s.tlvFound) : SliceInv t where
  found := by simpa only [ho, hl, hf, cap_congr s t htx hrx] using h.found
  notFound := by rw [ho, hl, hf]; exact h.notFound

/-! Completion. -/

/-- A completion that is no reception of a frame: nothing is claimed of the frame's registers. -/
theorem IdleInv.of_no_frame {s : State} (ha : s.isAck = false)
    (h : s.op = 0x05#8 → s.pendErr = .ok → s.err ≠ .ok) : IdleInv s where
  ackCompleted := fun h' => by simp [ha] at h'
  received := fun ho hp he => absurd he (h ho hp)

end Sys2Proof.Machine
end

section
/-! SUPPORT. The invariant at a reset edge, at an acceptance, and across the host's transaction. -/

namespace Sys2Proof.Machine

/-! Reset (70_reset_and_hazards.md R251). -/

theorem reset_latchedInv : LatchedInv State.reset where
  pendErrKinds := .inl rfl
  pendErrIllegal := ⟨nofun, fun ⟨_, he⟩ => nomatch he⟩
  abortNeverLatched := by decide

/-- A state with the reset values in the registers that the invariant speaks of, and legal capacities. -/
theorem inv_of_reset_values (s : State) (hc : 0 < s.txbufCap.toNat ∧ 0 < s.rxbufCap.toNat) (hm : s.mem = [])
    (hb : s.busy = false) (ho : s.op = State.reset.op) (ha : s.arg = State.reset.arg)
    (hp : s.pendErr = State.reset.pendErr) (hk : s.isAck = false)
    (ht : s.tlvFound = false ∧ s.tlvOff = 0#16 ∧ s.tlvLen = 0#8) : s.Inv := by
  obtain ⟨hf, hv⟩ := ht
  refine (inv_iff s).mpr ⟨⟨hc, by simp [hm], by simp [hm]⟩, reset_latchedInv.congr ho ha hp,
    ⟨by simp [hf], fun _ => hv⟩, by simp [hb], fun _ => .of_no_frame hk fun h5 => ?_⟩
  rw [ho] at h5
  exact absurd h5 (by decide)

theorem reset_inv : State.reset.Inv :=
  inv_of_reset_values _ (by decide) rfl rfl rfl rfl rfl rfl ⟨rfl, rfl, rfl⟩

theorem resetEdge_inv (s : State) (reads : List Word) (h : s.Inv) : (resetEdge s reads).Inv :=
  inv_of_reset_values _ h.capsLegal rfl rfl rfl rfl rfl rfl ⟨rfl, rfl, rfl⟩

/-! Acceptance (44_control.md R200). -/

/-- A latched word that is not ABORT meets the static check's part of the invariant. -/
theorem latch_latchedInv (s : State) (w : Word) (hw : w ≠ abortWord) : LatchedInv (latch s w) where
  pendErrKinds := staticCheck_cases s w
  pendErrIllegal := by
    rw [latchedWord_latch, latch_pendErr, staticCheck]
    cases decode w with
    | error e => simp
    | ok i => cases i <;> simp only [rangeCheck] <;> (try split) <;> simp
  abortNeverLatched := by rw [latchedWord_latch]; exact hw

/-- A word that passes its static check decodes, and passes its range test (44_control.md R202). -/
theorem decode_of_staticCheck_ok (s : State) (w : Word) (h : staticCheck s w = .ok) :
    ∃ i, decode w = .ok i ∧ rangeCheck s i = .ok := by
  unfold staticCheck at h
  cases hd : decode w with
  | error e => simp [hd] at h
  | ok i => exact ⟨i, rfl, by simpa [hd] using h⟩

/-- A word that passes its static check names the command that executes, which passed its range test
(44_control.md R202). -/
theorem executing_latch_of_ok (s : State) (w : Word) (h : staticCheck s w = .ok) (hw : w ≠ abortWord) :
    ∃ i, executing (latch s w) = some i ∧ rangeCheck s i = .ok := by
  obtain ⟨i, hd, hr⟩ := decode_of_staticCheck_ok s w h
  refine ⟨i, executing_of_decode _ _ (by rw [latchedWord_latch, hd]) ?_, hr⟩
  rintro rfl
  exact hw (eq_abortWord_of_decode w hd)

/-- A window command that passed its static check has a legal window. -/
theorem windowLegal_of_staticCheck (s : State) (w : Word) (h : staticCheck s w = .ok) (hw : w ≠ abortWord)
    (ho : opcodeOf w = 0x02#8 ∨ opcodeOf w = 0x07#8) : windowLegal s (Sel.ofBit ((argOf w).getLsbD 8)) = true := by
  obtain ⟨i, he, hr⟩ := executing_latch_of_ok s w h hw
  rcases executing_window (latch s w) ho with e | ⟨tag, e⟩ <;>
  · rw [e] at he
    injection he with he
    subst he
    simpa [rangeCheck] using hr

/-- A WRITE_FRAME that passed its static check has a payload that fits. -/
theorem txLen_le_of_staticCheck (s : State) (w : Word) (h : staticCheck s w = .ok) (hw : w ≠ abortWord)
    (ho : opcodeOf w = 0x06#8) : s.txLen.toNat ≤ s.txbufCap.toNat := by
  obtain ⟨i, he, hr⟩ := executing_latch_of_ok s w h hw
  rw [executing_writeFrame (latch s w) ho] at he
  injection he with he
  subst he
  simpa [rangeCheck] using hr

/-- An acceptance leaves what a running command needs: the deadline not passed, the automaton restarted, the payload or
the window within its buffer. -/
theorem accept_runningInv (w : Word) (s : State) (hw : w ≠ abortWord) : RunningInv (accept w s) := by
  rcases accept_cases w s with ⟨hc, e⟩ | ⟨hc, ho, e⟩ | ⟨hc, ho, e⟩ | ⟨hc, ho, e⟩ | ⟨hc, h5, h6, h2, h7, e⟩ <;> rw [e]
  case inl =>
    exact ⟨⟨rfl, rfl, rfl⟩, fun _ hp => absurd hp hc, fun _ hp => absurd hp hc, fun _ hp => absurd hp hc,
      fun hp => absurd hp hc⟩
  case inr.inl =>
    exact ⟨⟨rfl, rfl, rfl⟩, fun _ _ => Nat.zero_le _, fun _ _ => ⟨nofun, rfl, rfl⟩, by simp [ho],
      by simp [windowInv, ho]⟩
  case inr.inr.inl =>
    exact ⟨⟨rfl, rfl, rfl⟩, by simp [ho], by simp [ho],
      fun _ _ => ⟨txLen_le_of_staticCheck s w hc hw ho, Nat.zero_le _⟩, by simp [windowInv, ho]⟩
  case inr.inr.inr.inl =>
    have hnot : opcodeOf w ≠ 0x05#8 ∧ opcodeOf w ≠ 0x06#8 := by rcases ho with ho | ho <;> simp [ho]
    exact ⟨⟨rfl, rfl, rfl⟩, fun h => absurd h hnot.1, fun h => absurd h hnot.1, fun h => absurd h hnot.2,
      fun _ _ => ⟨windowLegal_of_staticCheck s w hc hw ho, latency_range _ _⟩⟩
  case inr.inr.inr.inr =>
    exact ⟨⟨rfl, rfl, rfl⟩, fun h => absurd h h5, fun h => absurd h h5, fun h => absurd h h6,
      fun _ h => absurd h (not_or.mpr ⟨h2, h7⟩)⟩

/-- An acceptance meets the invariant. -/
theorem accept_inv (w : Word) (s : State) (h : s.Inv) (hw : w ≠ abortWord) : (accept w s).Inv := by
  obtain ⟨buf, _, sl, _⟩ := (inv_iff s).mp h
  have k := accept_accepted w s
  exact (inv_iff _).mpr ⟨buf.congr k.txbufCap k.rxbufCap k.mem, (latch_latchedInv s w hw).congr k.op k.arg k.pendErr,
    sl.congr k.txbufCap k.rxbufCap k.tlvOff k.tlvLen k.tlvFound, fun _ => accept_runningInv w s hw, by simp [k.busy]⟩

/-! The host's transaction. -/

/-- The host's transaction at an edge that began busy can write CFG.IE and BWE, and clear DONE: none of them matters. -/
theorem endEdge_busy_inv (pre post : State) (hb : pre.busy = true) (h : post.Inv) : (endEdge pre post).Inv := by
  obtain ⟨ie, done, bwe, reads, e, hd, _⟩ := endEdge_busy pre post hb
  obtain ⟨buf, lat, sl, run, idle⟩ := (inv_iff post).mp h
  rw [e]
  refine (inv_iff _).mpr ⟨buf.congr rfl rfl rfl, lat.congr rfl rfl rfl, sl.congr rfl rfl rfl rfl rfl, fun hp => ?_,
    fun hp => ?_⟩
  · obtain ⟨⟨hdone, herr, hack⟩, el, rd, wr, win⟩ := run hp
    have hdone' : done = false := by
      by_contra hn
      have := hd (by simpa using hn)
      simp [hdone] at this
    exact ⟨⟨hdone', herr, hack⟩, el, rd, wr, win⟩
  · exact ⟨(idle hp).ackCompleted, (idle hp).received⟩

/-- What the host writes while idle are operands, W1C bits and buffer bytes: no completed command depends on them. -/
theorem hostWrite_idle_inv (completed : Bool) (a : Addr) (v : Word) (s : State) (hb : s.busy = false) (h : s.Inv) :
    (hostWrite false completed a v s).Inv := by
  obtain ⟨buf, lat, sl, _, idle⟩ := (inv_iff s).mp h
  rcases hostWrite_idle completed a v s with ⟨_, _, _, _, _, _, _, _, e, _⟩ | ⟨sel, i, e⟩ <;> rw [e, inv_iff]
  · exact ⟨buf.congr rfl rfl rfl, lat.congr rfl rfl rfl, sl.congr rfl rfl rfl rfl rfl, by simp [hb],
      fun hb => ⟨(idle hb).ackCompleted, (idle hb).received⟩⟩
  · refine ⟨buf.writeBufWord sel i v, lat.congr (by simp) (by simp) (by simp),
      sl.congr (by simp) (by simp) (by simp) (by simp) (by simp), by simp [hb], fun _ => ?_⟩
    obtain ⟨ack, rec⟩ := idle hb
    exact ⟨by simpa using ack, by simpa using rec⟩

/-- The script and the log of the host's reads are the model's own. -/
theorem inv_of_environment (s : State) (l : List Input) (reads : List Word) (h : s.Inv) :
    ({ s with inputs := l, hostReads := reads } : State).Inv := by
  cases h
  constructor <;> assumption

/-- The host's transaction at an idle edge that runs no command. -/
theorem endEdge_idle_inv (s : State) (hb : s.busy = false) (h : s.Inv) : (endEdge s s).Inv := by
  refine inv_of_environment _ _ _ ?_
  unfold hostEffect
  split
  · exact h
  · exact h
  · rw [hb]
    exact hostWrite_idle_inv _ _ _ s hb h

end Sys2Proof.Machine
end

section
/-! SUPPORT. The invariant at an execution edge: READ_FRAME byte by byte, then every command. -/

namespace Sys2Proof.Machine

/-! READ_FRAME (41_frame_reader.md R125 to R139). -/

/-- READ_FRAME executes, and meets the invariant of its phase. -/
structure Reading (s : State) : Prop where
  busy : s.busy = true
  op : s.op = 0x05#8
  cleared : s.done = false ∧ s.err = .ok ∧ s.isAck = false
  reader : readerInv s

/-- What a READ_FRAME's edge leaves: the command goes on and meets the invariant of its phase, or it completes. -/
def ReadResult (t : State) : Prop := Reading t ∨ t.busy = false ∧ IdleInv t

/-- A completion with a code other than OK. -/
theorem Reading.finish_error {s : State} (h : Reading s) (e : Code) (he : e ≠ .ok) : ReadResult (finish e s) :=
  .inr ⟨rfl, .of_no_frame h.cleared.2.2 fun _ _ => he⟩

theorem onSync_result (b : Byte) (s : State) (h : Reading s) (hp : s.phase = .sync) : ReadResult (onSync b s) := by
  obtain ⟨hb, ho, hc, hr⟩ := h
  simp only [readerInv, hp] at hr
  obtain ⟨_, hcnt, hcalc⟩ := hr
  unfold onSync
  split
  · exact .inl ⟨hb, ho, hc, rfl, hcnt, hcalc⟩
  · rename_i hd
    refine .inl ⟨hb, ho, hc, ?_⟩
    simp only [readerInv, hp]
    exact ⟨hd, hcnt, hcalc⟩

theorem onLenH_result (b : Byte) (s : State) (h : Reading s) (hp : s.phase = .lenH) : ReadResult (onLenH b s) := by
  obtain ⟨hb, ho, hc, hr⟩ := h
  simp only [readerInv, hp] at hr
  exact .inl ⟨hb, ho, hc, hr⟩

theorem onLenL_result (b : Byte) (s : State) (h : Reading s) (hp : s.phase = .lenL) : ReadResult (onLenL b s) := by
  obtain ⟨hb, ho, hc, hr⟩ := h
  simp only [readerInv, hp] at hr
  exact .inl ⟨hb, ho, hc, hr⟩

/-- The LCS byte decides: an ACK, an error, an empty payload, or a payload that fits (R135). -/
theorem onLcs_result (b : Byte) (s : State) (h : Reading s) (hp : s.phase = .lcs) : ReadResult (onLcs b s) := by
  obtain ⟨hb, ho, hc, hr⟩ := h
  simp only [readerInv, hp] at hr
  obtain ⟨hs, hcnt, hcalc⟩ := hr
  have hdcs : s.dcsCalc = dcs (bufBytes s .rx 0 s.rxCnt.toNat) := by rw [hcalc, hcnt]; exact dcs_nil.symm
  unfold onLcs
  split_ifs with hack hlcs hfit hzero
  · obtain ⟨hlen, hff⟩ := hack
    exact .inl ⟨hb, ho, hc, hs, hcnt, hlen, hff⟩
  · exact .inr ⟨rfl, .of_no_frame hc.2.2 nofun⟩
  · exact .inr ⟨rfl, .of_no_frame hc.2.2 nofun⟩
  · exact .inl ⟨hb, ho, hc, hs, hcnt.trans hzero.symm, not_lt.mp hfit, not_not.mp hlcs, hdcs⟩
  · have hpos : s.rxCnt.toNat < s.rxLen.toNat := by
      rw [hcnt]
      exact Nat.pos_of_ne_zero fun h0 => hzero (BitVec.eq_of_toNat_eq h0)
    exact .inl ⟨hb, ho, hc, hs, hpos, not_lt.mp hfit, not_not.mp hlcs, hdcs⟩

/-- An ACK completes with RX_CNT = RX_LEN = 0 (R136). -/
theorem onAckPost_result (b : Byte) (s : State) (h : Reading s) (hp : s.phase = .ackPost) :
    ReadResult (onAckPost b s) := by
  obtain ⟨_, ho, _, hr⟩ := h
  simp only [readerInv, hp] at hr
  obtain ⟨_, hcnt, hlen, _⟩ := hr
  exact .inr ⟨rfl, fun _ => ⟨ho, rfl, hp⟩, fun _ _ _ => ⟨hcnt.trans hlen.symm, fun _ => hlen, nofun⟩⟩

/-- A payload byte is stored at RX_CNT, and DCS_CALC follows the bytes stored (R137). -/
theorem onPay_result (b : Byte) (s : State) (h : Reading s) (hp : s.phase = .pay) : ReadResult (onPay b s) := by
  obtain ⟨hb, ho, hc, hr⟩ := h
  simp only [readerInv, hp] at hr
  obtain ⟨hs, hlt, hfit, hlcs, hcalc⟩ := hr
  have hcnt : (s.rxCnt + 1#16).toNat = s.rxCnt.toNat + 1 := by
    have := s.rxLen.isLt
    simp only [BitVec.toNat_add, BitVec.toNat_ofNat]
    omega
  have hbytes : bufBytes (bufWrite s .rx s.rxCnt.toNat b) .rx 0 (s.rxCnt.toNat + 1) =
      bufBytes s .rx 0 s.rxCnt.toNat ++ [b] := by
    rw [bufBytes_succ, bufBytes_bufWrite_past _ _ _ _ _ _ (by omega), Nat.zero_add,
      bufRead_bufWrite_same s .rx _ b (lt_of_lt_of_le hlt hfit)]
  have hdcs : s.dcsCalc - b = dcs (bufBytes (bufWrite s .rx s.rxCnt.toNat b) .rx 0 (s.rxCnt + 1#16).toNat) := by
    rw [hcnt, hbytes, dcs_concat, hcalc]
  refine .inl ⟨?_, ?_, ?_, ?_⟩
  · simpa [onPay] using hb
  · simpa [onPay] using ho
  · simpa [onPay] using hc
  · by_cases hlast : s.rxCnt.toNat + 1 = s.rxLen.toNat
    · simp only [readerInv, onPay, if_pos hlast]
      exact ⟨by simpa using hs, by simpa using BitVec.eq_of_toNat_eq (hcnt.trans hlast), by simpa using hfit,
        by simpa using hlcs, hdcs⟩
    · simp only [readerInv, onPay, if_neg hlast, hp]
      exact ⟨by simpa using hs, by simp only [bufWrite_rxLen]; omega, by simpa using hfit, by simpa using hlcs, hdcs⟩

theorem onDcs_result (b : Byte) (s : State) (h : Reading s) (hp : s.phase = .dcs) : ReadResult (onDcs b s) := by
  obtain ⟨hb, ho, hc, hr⟩ := h
  simp only [readerInv, hp] at hr
  exact .inl ⟨hb, ho, hc, hr⟩

/-- The postamble completes with OK exactly when the checksums agree (R139). -/
theorem onPost_result (b : Byte) (s : State) (h : Reading s) (hp : s.phase = .post) : ReadResult (onPost b s) := by
  obtain ⟨_, ho, ⟨_, _, hk⟩, hr⟩ := h
  simp only [readerInv, hp] at hr
  obtain ⟨_, hcnt, _⟩ := hr
  unfold onPost
  split
  · rename_i hd
    exact .inr ⟨rfl, fun h => absurd h (by simp [hk]),
      fun _ _ _ => ⟨hcnt, fun h => absurd h (by simp [hk]), fun _ => ⟨hp, hd⟩⟩⟩
  · exact .inr ⟨rfl, .of_no_frame hk nofun⟩

/-- The rule of the phase keeps the invariant, or completes (R127). -/
theorem applyPhase_result (b : Byte) (s : State) (h : Reading s) : ReadResult (applyPhase b s) := by
  unfold applyPhase
  split <;> rename_i hp
  case h_1 => exact .inl h
  case h_2 => exact onSync_result b s h hp
  case h_3 => exact onLenH_result b s h hp
  case h_4 => exact onLenL_result b s h hp
  case h_5 => exact onLcs_result b s h hp
  case h_6 => exact onAckPost_result b s h hp
  case h_7 => exact onPay_result b s h hp
  case h_8 => exact onDcs_result b s h hp
  case h_9 => exact onPost_result b s h hp

theorem takeByte_result (b : Byte) (s : State) (h : Reading s) : ReadResult (takeByte b s) :=
  applyPhase_result b _ ⟨h.busy, h.op, h.cleared, h.reader⟩

/-- A tick changes ELAPSED alone, and only while the command goes on (R131). -/
theorem countTick_result (tick : Bool) (s : State) (h : ReadResult s) : ReadResult (countTick tick s) := by
  rcases countTick_cases tick s with ⟨_, hb, e⟩ | ⟨_, e⟩ <;> rw [e]
  · rcases h with h | ⟨hi, _⟩
    · exact .inl ⟨h.busy, h.op, h.cleared, h.reader⟩
    · simp [hb] at hi
  · exact h

/-- READ_FRAME's edge: the deadline, the byte, the tick (R127, R128). -/
theorem readFrameBody_result (s : State) (h : Reading s) : ReadResult (readFrameBody s) := by
  cases hu : s.elapsed.ult s.deadline with
  | false =>
    rw [readFrameBody_timeout s hu]
    exact h.finish_error _ (by cases s.phase <;> simp [timeoutCode])
  | true =>
    cases hv : s.input.rxValid with
    | false => rw [readFrameBody_stall s hu hv]; exact countTick_result _ _ (.inl h)
    | true => rw [readFrameBody_byte s hu hv]; exact countTick_result _ _ (takeByte_result _ s h)

/-- ELAPSED passes DEADLINE at no edge: it is counted only below it (R128, R131). -/
theorem readFrameBody_elapsed (s : State) (h : s.elapsed.toNat ≤ s.deadline.toNat) :
    (readFrameBody s).elapsed.toNat ≤ s.deadline.toNat := by
  have tick (t : State) (ht : t.elapsed = s.elapsed) (hu : s.elapsed.ult s.deadline = true) :
      (countTick s.input.tick t).elapsed.toNat ≤ s.deadline.toNat := by
    have hlt : s.elapsed.toNat < s.deadline.toNat := by simpa [BitVec.ult] using hu
    rcases countTick_cases s.input.tick t with ⟨_, _, e⟩ | ⟨_, e⟩ <;> rw [e]
    · simp only [ht, BitVec.toNat_add, BitVec.toNat_ofNat]
      omega
    · rwa [ht]
  cases hu : s.elapsed.ult s.deadline with
  | false => rw [readFrameBody_timeout s hu]; exact h
  | true =>
    cases hv : s.input.rxValid with
    | false => rw [readFrameBody_stall s hu hv]; exact tick s rfl hu
    | true => rw [readFrameBody_byte s hu hv]; exact tick _ (takeByte_kept _ s).2.1 hu

/-! TLV_RES (43_tlv.md R181, R184). -/

/-- What the scan finds ends in the window. -/
theorem scanFrom_slice (rd : Nat → Byte) (stop : Nat) (target marker : Byte) (fuel i off : Nat) (len : Byte)
    (h : scanFrom rd stop target marker fuel i = some (off, len)) : off + len.toNat ≤ stop := by
  induction fuel generalizing i with
  | zero => simp [scanFrom] at h
  | succ fuel ih =>
    unfold scanFrom at h
    split_ifs at h with _ _ _ _ _ hfit
    · exact ih _ h
    · simp only [Option.some.injEq, Prod.mk.injEq] at h
      obtain ⟨rfl, rfl⟩ := h
      exact hfit
    · exact ih _ h

/-- FIND_TAG with a legal window leaves a slice of its buffer, or 0. -/
theorem findTagBody_sliceInv (tag : Byte) (sel : Sel) (s : State) (h : windowLegal s sel = true) :
    SliceInv (findTagBody tag sel s) := by
  unfold findTagBody
  split
  · rename_i off len hs
    have hend : off + len.toNat ≤ cap s sel :=
      (scanFrom_slice _ _ _ _ _ _ _ _ hs).trans (by simpa [windowLegal] using h)
    have hslice : (BitVec.ofNat 16 off).toNat + len.toNat ≤ cap s sel := by
      have := cap_lt s sel
      rw [BitVec.toNat_ofNat]
      omega
    exact ⟨fun _ => ⟨sel, hslice⟩, nofun⟩
  · exact ⟨nofun, fun _ => ⟨rfl, rfl⟩⟩

theorem applyPhase_tlv (b : Byte) (s : State) :
    (applyPhase b s).tlvOff = s.tlvOff ∧ (applyPhase b s).tlvLen = s.tlvLen ∧
    (applyPhase b s).tlvFound = s.tlvFound := by
  unfold applyPhase
  split
  case h_2 => unfold onSync; split <;> exact ⟨rfl, rfl, rfl⟩
  case h_5 => unfold onLcs; split_ifs <;> exact ⟨rfl, rfl, rfl⟩
  case h_7 => simp [onPay]
  case h_9 => unfold onPost; split <;> exact ⟨rfl, rfl, rfl⟩
  all_goals exact ⟨rfl, rfl, rfl⟩

/-- READ_FRAME leaves TLV_RES alone. -/
theorem readFrameBody_tlv (s : State) :
    (readFrameBody s).tlvOff = s.tlvOff ∧ (readFrameBody s).tlvLen = s.tlvLen ∧
    (readFrameBody s).tlvFound = s.tlvFound := by
  have tick (t : State) : (countTick s.input.tick t).tlvOff = t.tlvOff ∧ (countTick s.input.tick t).tlvLen = t.tlvLen ∧
      (countTick s.input.tick t).tlvFound = t.tlvFound := by
    rcases countTick_cases s.input.tick t with ⟨_, _, e⟩ | ⟨_, e⟩ <;> rw [e] <;> exact ⟨rfl, rfl, rfl⟩
  cases hu : s.elapsed.ult s.deadline with
  | false => rw [readFrameBody_timeout s hu]; exact ⟨rfl, rfl, rfl⟩
  | true =>
    cases hv : s.input.rxValid with
    | false => rw [readFrameBody_stall s hu hv]; exact tick s
    | true =>
      rw [readFrameBody_byte s hu hv]
      obtain ⟨ho, hl, hf⟩ := applyPhase_tlv s.input.rxData { s with rxTotal := satSucc s.rxTotal }
      obtain ⟨ho', hl', hf'⟩ := tick (takeByte s.input.rxData s)
      exact ⟨ho'.trans ho, hl'.trans hl, hf'.trans hf⟩

/-! Every command. -/

/-- Only FIND_TAG writes TLV_RES, and it writes a slice (43_tlv.md R184). -/
theorem engineStep_sliceInv (s : State) (h : SliceInv s) (hw : windowInv s) : SliceInv (engineStep s) := by
  have hc := engineStep_cases s
  generalize engineStep s = t at hc
  cases hc with
  | readFrame p e =>
    obtain ⟨k, _⟩ := readFrameBody_kept s
    obtain ⟨ho, hl, hf⟩ := readFrameBody_tlv s
    exact h.congr k.txbufCap k.rxbufCap ho hl hf
  | writeFrame p e => unfold writeFrameBody; split_ifs <;> exact h.congr rfl rfl rfl rfl rfl
  | findTag tag sel p e l =>
    have hop : s.op = 0x07#8 := (op_of_executing s _ e).trans (opcodeOf_encode_findTag tag sel)
    have hsel := sel_of_executing s _ sel e rfl
    exact findTagBody_sliceInv tag sel s (hsel ▸ (hw p (.inr hop)).1)
  | _ => exact h.congr rfl rfl rfl rfl rfl

/-- The buffers after the executing command's step: at most one more byte of RXBUF, which exists. -/
theorem engineStep_bufferInv (s : State) (h : BufferInv s) : BufferInv (engineStep s) := by
  obtain ⟨k, _⟩ := engineStep_kept s
  rcases engineStep_mem s with hm | ⟨b, hm⟩
  · exact h.congr k.txbufCap k.rxbufCap hm
  · exact (h.bufWrite .rx s.rxCnt.toNat b).congr (by simpa using k.txbufCap) (by simpa using k.rxbufCap) hm

/-- WRITE_FRAME goes on with a byte of its frame to present, or completes (42_frame_writer.md R160, R163). -/
theorem writeFrameBody_runningInv (s : State) (h : RunningInv s) (hop : s.op = 0x06#8) (hp : s.pendErr = .ok)
    (hb : (writeFrameBody s).busy = true) : RunningInv (writeFrameBody s) := by
  obtain ⟨hfit, hcnt⟩ := h.writer hop hp
  unfold writeFrameBody at hb ⊢
  split_ifs at hb ⊢ with hr hlast
  · simp at hb
  · refine ⟨h.cleared, h.elapsedBounded, h.reader, fun _ _ => ⟨hfit, ?_⟩, h.window⟩
    simp only [handOver_txCnt, handOver_txLen, BitVec.toNat_add, BitVec.toNat_ofNat]
    omega
  · exact h

/-- READ_FRAME's edge, in the parts of the invariant. -/
theorem readFrameBody_parts (s : State) (hb : s.busy = true) (h : RunningInv s) (hop : s.op = 0x05#8)
    (hp : s.pendErr = .ok) :
    ((readFrameBody s).busy = true → RunningInv (readFrameBody s)) ∧
    ((readFrameBody s).busy = false → IdleInv (readFrameBody s)) := by
  obtain ⟨k, _⟩ := readFrameBody_kept s
  have he := readFrameBody_elapsed s (h.elapsedBounded hop hp)
  have hop' : (readFrameBody s).op = 0x05#8 := k.op.trans hop
  rcases readFrameBody_result s ⟨hb, hop, h.cleared, h.reader hop hp⟩ with hr | ⟨hi, hr⟩
  · refine ⟨fun _ => ⟨hr.cleared, fun _ _ => by rwa [k.deadline], fun _ _ => hr.reader, by simp [hop'],
      by simp [windowInv, hop']⟩, by simp [hr.busy]⟩
  · exact ⟨by simp [hi], fun _ => hr⟩

/-- A command other than READ_FRAME completes: it leaves nothing that is claimed of a received frame. -/
theorem idleInv_of_other (s t : State) (h : RunningInv s) (i : Instr) (he : executing s = some i) (hi : i ≠ .readFrame)
    (hop : t.op = s.op) (hk : t.isAck = s.isAck) : IdleInv t := by
  refine .of_no_frame (hk.trans h.cleared.2.2) fun h5 => absurd ?_ hi
  rw [hop] at h5
  exact Option.some.inj (he.symm.trans (executing_readFrame s h5))

/-- The executing command's step goes on with a running command, or completes. -/
theorem engineStep_parts (s : State) (hb : s.busy = true) (h : RunningInv s) :
    ((engineStep s).busy = true → RunningInv (engineStep s)) ∧
    ((engineStep s).busy = false → IdleInv (engineStep s)) := by
  have hk : s.isAck = false := h.cleared.2.2
  have hc := engineStep_cases s
  generalize engineStep s = t at hc
  cases hc with
  | pending p => exact ⟨nofun, fun _ => .of_no_frame hk fun _ _ => p⟩
  | illegal none => exact ⟨nofun, fun _ => .of_no_frame hk nofun⟩
  | nop p e => exact ⟨nofun, fun _ => idleInv_of_other s _ h _ e nofun rfl rfl⟩
  | lcsGen l p e => exact ⟨nofun, fun _ => idleInv_of_other s _ h _ e nofun rfl rfl⟩
  | dcsGen sel p e l => exact ⟨nofun, fun _ => idleInv_of_other s _ h _ e nofun rfl rfl⟩
  | preStep b p e => exact ⟨nofun, fun _ => idleInv_of_other s _ h _ e nofun rfl rfl⟩
  | preClr p e => exact ⟨nofun, fun _ => idleInv_of_other s _ h _ e nofun rfl rfl⟩
  | waits sel p e l =>
    have hwin : windowInv { s with latLeft := s.latLeft - 1 } := fun hp ho => by
      obtain ⟨hlegal, _, hle⟩ := h.window hp ho
      exact ⟨hlegal, Nat.le_sub_one_of_lt l, (Nat.sub_le _ _).trans hle⟩
    exact ⟨fun _ => ⟨h.cleared, h.elapsedBounded, h.reader, h.writer, hwin⟩, fun hi => by simp [hb] at hi⟩
  | readFrame p e => exact readFrameBody_parts s hb h (op_of_executing s _ e) p
  | writeFrame p e =>
    refine ⟨writeFrameBody_runningInv s h (op_of_executing s _ e) p,
      fun _ => idleInv_of_other s _ h _ e nofun ?_ ?_⟩ <;>
    · unfold writeFrameBody
      split_ifs <;> rfl
  | findTag tag sel p e l =>
    refine ⟨fun hb' => ?_, fun _ => idleInv_of_other s _ h _ e nofun ?_ ?_⟩ <;> unfold findTagBody at *
    · split at hb' <;> simp at hb'
    · split <;> rfl
    · split <;> rfl

theorem engineStep_inv (s : State) (hb : s.busy = true) (h : s.Inv) : (engineStep s).Inv := by
  obtain ⟨buf, lat, sl, run, _⟩ := (inv_iff s).mp h
  obtain ⟨k, _⟩ := engineStep_kept s
  exact (inv_iff _).mpr ⟨engineStep_bufferInv s buf, lat.congr k.op k.arg k.pendErr,
    engineStep_sliceInv s sl (run hb).window, engineStep_parts s hb (run hb)⟩

/-- An abort edge is the command's step, or a completion with ABORTED after it (44_control.md R205). -/
theorem abortEdge_inv (s : State) (hb : s.busy = true) (h : s.Inv) : (abortEdge s).Inv := by
  have he := engineStep_inv s hb h
  unfold abortEdge
  split
  · rename_i hb'
    obtain ⟨buf, lat, sl, run, _⟩ := (inv_iff _).mp he
    exact (inv_iff _).mpr ⟨buf.congr rfl rfl rfl, lat.congr rfl rfl rfl, sl.congr rfl rfl rfl rfl rfl, nofun,
      fun _ => .of_no_frame (run hb').cleared.2.2 nofun⟩
  · exact he

/-- Every step keeps the invariant. -/
theorem step_inv (s t : State) (h : s.Inv) (hs : step s = .next t) : t.Inv := by
  rcases step_cases s t hs with ⟨_, rfl⟩ | ⟨_, u, hu, rfl⟩
  · exact resetEdge_inv s _ h
  cases hb : s.busy with
  | true =>
    refine endEdge_busy_inv s u hb ?_
    cases hu with
    | aborted => exact abortEdge_inv s hb h
    | executed => exact engineStep_inv s hb h
    | noCommand => exact h
    | idleAbort => exact h
    | accepted idle => simp [hb] at idle
    | acceptedIllegal idle => simp [hb] at idle
  | false =>
    rcases edgeResult_idle s u hu hb with rfl | ⟨w, v, hw, hne, rfl⟩
    · exact endEdge_idle_inv u hb h
    · rw [endEdge_idle_cmd s _ v hb hw]
      exact inv_of_environment _ _ _ (accept_inv w s h hne)

end Sys2Proof.Machine
end

section
/-! SUPPORT. What an acceptance leaves, command by command (44_control.md R200, R202). -/

namespace Sys2Proof.Machine

/-- A command whose static check fails is latched with its code, and nothing else happens. -/
theorem exec_idle_rejected (s : State) (i : Instr) (e : Code) (hb : s.busy = false) (hi : i ≠ .abort)
    (hr : rangeCheck s i = e) (he : e ≠ .ok) :
    exec i s = .next { s with
      busy := true, done := false, err := .ok, isAck := false, op := opcodeOf (encode i), arg := argOf (encode i),
      pendErr := e } := by
  have hc : staticCheck s (encode i) = e := (staticCheck_encode s i).trans hr
  rw [exec_idle s i hb hi, accept, hc, if_neg he, latch, hc]

/-- A command that passes its static check and has acceptance writes of its own, or none. -/
theorem exec_idle_passed (s : State) (i : Instr) (hb : s.busy = false) (hi : i ≠ .abort) (hr : rangeCheck s i = .ok) :
    exec i s = .next (acceptanceWrites { s with
      busy := true, done := false, err := .ok, isAck := false, op := opcodeOf (encode i), arg := argOf (encode i),
      pendErr := .ok } (encode i)) := by
  have hc : staticCheck s (encode i) = .ok := (staticCheck_encode s i).trans hr
  rw [exec_idle s i hb hi, accept, if_pos hc, latch, hc]

theorem acceptanceWrites_none (s : State) (w : Word) (h5 : opcodeOf w ≠ 0x05#8) (h6 : opcodeOf w ≠ 0x06#8)
    (h2 : opcodeOf w ≠ 0x02#8) (h7 : opcodeOf w ≠ 0x07#8) : acceptanceWrites s w = s := by
  rw [acceptanceWrites, if_neg h5, if_neg h6, if_neg (not_or.mpr ⟨h2, h7⟩)]

theorem acceptanceWrites_window (s : State) (w : Word) (h : opcodeOf w = 0x02#8 ∨ opcodeOf w = 0x07#8) :
    acceptanceWrites s w = drawLatency s := by
  have h5 : opcodeOf w ≠ 0x05#8 := by rcases h with h | h <;> simp [h]
  have h6 : opcodeOf w ≠ 0x06#8 := by rcases h with h | h <;> simp [h]
  rw [acceptanceWrites, if_neg h5, if_neg h6, if_pos h]

/-- The word of a state that holds a word's two fields in OP and ARG. -/
theorem latchedWord_of_fields (t : State) (w : Word) (ho : t.op = opcodeOf w) (ha : t.arg = argOf w) :
    latchedWord t = w := by
  rw [latchedWord, ho, ha]
  exact latchedWord_latch State.reset w

end Sys2Proof.Machine
end

section
/-! The statements about the state, settled: reset and the invariant, acceptance, the registers and the address map, and
what the host's transaction can and cannot do. -/

namespace Sys2Proof.Machine

/-- Settles O7: the reset values meet every part of the invariant. -/
theorem resetStateMeetsInvariant : Obligations.ResetStateMeetsInvariant := reset_inv

/-- Settles O8, by the cases of an edge: reset, an executing command's step, an acceptance, an idle edge. -/
theorem everyStepKeepsInvariant : Obligations.EveryStepKeepsInvariant := step_inv

/-- Settles O6: every register of the reset edge's state is closed but CAPS, and its memory is empty. -/
theorem resetEdgeLeavesResetValues : Obligations.ResetEdgeLeavesResetValues := by
  intro s hr
  refine ⟨_, step_reset s hr, hostRead_id _, (hostRead_cfg _).trans (by decide : cfgWord State.reset = _),
    (hostRead_status _).trans (by decide : statusWord State.reset = _), rfl, ?_,
    hostRead_caps _, rfl, rfl, rfl, fun sel k hk => ?_, rfl, rfl, rfl, rfl, ?_⟩
  · simp only [List.forall_mem_cons, List.not_mem_nil, false_imp_iff, implies_true, and_true]
    exact ⟨rfl, rfl, rfl, rfl, rfl, (hostRead_rxChk _).trans (by decide : rxChkWord State.reset = _), rfl, rfl, rfl,
      rfl, (hostRead_tlvRes _).trans (by decide : tlvResWord State.reset = _)⟩
  · have hc : cap (resetEdge s (readWords s)) sel = cap s sel := cap_congr s _ rfl rfl sel
    rw [bufRead, hc, if_pos hk]
    rfl
  · simp only [resetEdge, Bool.and_eq_true]

/-- Settles O9: no case of an edge writes the capacities. -/
theorem idAndCapsNeverChange : Obligations.IdAndCapsNeverChange := by
  intro s t h
  have hcaps : t.txbufCap = s.txbufCap ∧ t.rxbufCap = s.rxbufCap := by
    rcases step_cases s t h with ⟨_, rfl⟩ | ⟨_, u, hu, rfl⟩
    · exact ⟨rfl, rfl⟩
    · obtain ⟨htx, hrx, _⟩ := edgeResult_keeps s u hu
      obtain ⟨htx', hrx'⟩ := endEdge_caps s u
      exact ⟨htx'.trans htx, hrx'.trans hrx⟩
  obtain ⟨htx, hrx⟩ := hcaps
  exact ⟨hostRead_id s, hostRead_id t, hostRead_caps s, by
    rw [hostRead_caps, hostRead_caps, capsWord, capsWord, htx, hrx]⟩

/-- Settles O18: the four commands pass their static check and have no acceptance writes of their own. -/
theorem oneCycleCommandsAreAccepted : Obligations.OneCycleCommandsAreAccepted := by
  intro s i hb hi
  have hcmd : i ≠ .abort ∧ rangeCheck s i = .ok ∧ opcodeOf (encode i) ∈ [0x00#8, 0x01#8, 0x03#8, 0x04#8] := by
    rcases hi with rfl | ⟨l, rfl⟩ | ⟨b, rfl⟩ | rfl
    · exact ⟨nofun, rfl, by decide⟩
    · exact ⟨nofun, rfl, by simp [opcodeOf_encode_lcsGen]⟩
    · exact ⟨nofun, rfl, by simp [opcodeOf_encode_preStep]⟩
    · exact ⟨nofun, rfl, by decide⟩
  obtain ⟨hne, hr, hop⟩ := hcmd
  have hnone {c : Byte} (h : c ∉ [0x00#8, 0x01#8, 0x03#8, 0x04#8]) : opcodeOf (encode i) ≠ c := fun e => h (e ▸ hop)
  refine ⟨_, exec_idle_passed s i hb hne hr, ?_, ?_⟩ <;>
    rw [acceptanceWrites_none _ _ (hnone (by decide)) (hnone (by decide)) (hnone (by decide)) (hnone (by decide))]
  exact latchedWord_of_fields _ _ rfl rfl

/-- Settles O19: the two window commands draw their latency. -/
theorem windowCommandsAreAccepted : Obligations.WindowCommandsAreAccepted := by
  intro s i sel hb hi hw
  have hcmd : i ≠ .abort ∧ rangeCheck s i = .ok ∧ (opcodeOf (encode i) = 0x02#8 ∨ opcodeOf (encode i) = 0x07#8) := by
    rcases hi with rfl | ⟨tag, rfl⟩
    · exact ⟨nofun, by simp [rangeCheck, windowLegal, hw], .inl (opcodeOf_encode_dcsGen sel)⟩
    · exact ⟨nofun, by simp [rangeCheck, windowLegal, hw], .inr (opcodeOf_encode_findTag tag sel)⟩
  obtain ⟨hne, hr, hop⟩ := hcmd
  obtain ⟨h1, hn⟩ := latency_range s.winLen.toNat s.latDraws
  refine ⟨_, latency s.winLen.toNat s.latDraws, s.latDraws.tail, exec_idle_passed s i hb hne hr, ?_, h1, hn,
    fun h => by rw [h]; rfl, ?_⟩ <;> rw [acceptanceWrites_window _ _ hop]
  · exact latchedWord_of_fields _ _ rfl rfl
  · rfl

/-- Settles O22: the range test of each of the three commands fails. -/
theorem rangeErrorIsLatched : Obligations.RangeErrorIsLatched := by
  intro s i hb hi
  have hcmd : i ≠ .abort ∧ rangeCheck s i = .range := by
    rcases hi with ⟨sel, rfl | ⟨tag, rfl⟩, hw⟩ | ⟨rfl, hl⟩
    · exact ⟨nofun, by simp [rangeCheck, windowLegal, hw]⟩
    · exact ⟨nofun, by simp [rangeCheck, windowLegal, hw]⟩
    · exact ⟨nofun, by simp [rangeCheck, hl]⟩
  obtain ⟨hne, hr⟩ := hcmd
  exact ⟨_, exec_idle_rejected s i .range hb hne hr nofun, latchedWord_of_fields _ _ rfl rfl, rfl⟩

/-- Settles O23: ILLEGAL stands in PEND_ERR after the acceptance edge, and the next edge completes with it. -/
theorem illegalWordCompletesWithIllegal : Obligations.IllegalWordCompletesWithIllegal := by
  intro s w hb hr hw hdef
  obtain ⟨e, hd⟩ : ∃ e, decode w = .error e := by
    cases hd : decode w with
    | error e => exact ⟨e, rfl⟩
    | ok i => simp [definedWord_of_decode w i hd] at hdef
  have hc : staticCheck s w = .illegal := by simp [staticCheck, hd]
  have ha : accept w s = latch s w := by simp [accept, hc]
  have hstep : step s = .next { latch s w with inputs := s.inputs.tail } := by
    rw [step_of_no_fetch s hr (by simp [fetch, hb, hw, hd, Except.toOption]), endEdge_idle_cmd s _ w hb hw]
    simp [withoutCommand, hb, hw, ha]
  refine ⟨_, hstep, latchedWord_of_fields _ _ rfl rfl, by simp only [latch, hc], fun hr' hh => ?_⟩
  generalize ht : ({ latch s w with inputs := s.inputs.tail } : State) = t at hr' hh ⊢
  have hp : t.pendErr = .illegal := by rw [← ht]; exact hc
  rw [step_busy_noHost t (by rw [← ht]; rfl) hr' hh, engineStep_of_illegal t hp]
  rfl

/-- Settles O42: each register's offset by evaluation, the rest by the quarters of the address space. -/
theorem addressMap : Obligations.AddressMap := by
  refine ⟨by decide, fun k hlo hhi => ?_, fun k hk => ⟨?_, ?_, ?_⟩, locate_aligned⟩
  · rw [locate_ofNat k (by omega), if_pos (by omega), locateReg_past k hlo]
  · rw [show 0x10000 + 4 * k = 4 * (0x4000 + k) by omega, locate_ofNat _ (by omega), if_neg (by omega),
      if_pos (by omega), show 4 * (0x4000 + k) - 0x10000 = 4 * k by omega]
  · rw [show 0x20000 + 4 * k = 4 * (0x8000 + k) by omega, locate_ofNat _ (by omega), if_neg (by omega),
      if_neg (by omega), if_pos (by omega), show 4 * (0x8000 + k) - 0x20000 = 4 * k by omega]
  · rw [show 0x30000 + 4 * k = 4 * (0xC000 + k) by omega, locate_ofNat _ (by omega), if_neg (by omega),
      if_neg (by omega), if_neg (by omega)]

/-- Settles O43, field by field. -/
theorem registersReadTheirFields : Obligations.RegistersReadTheirFields := by
  intro s
  refine ⟨⟨_, hostRead_status s, ?_⟩, ⟨_, hostRead_cfg s, ?_⟩, ⟨_, hostRead_rxChk s, ?_⟩, ⟨_, hostRead_tlvRes s, ?_⟩,
    ?_⟩
  · obtain ⟨hsync, hres, herr, hphase, hop, htop⟩ := statusWord_fields s
    refine ⟨getLsbD_statusWord s 0 (by decide), getLsbD_statusWord s 1 (by decide), getLsbD_statusWord s 2 (by decide),
      getLsbD_statusWord s 3 (by decide), ?_, hres, ?_, ?_, hop, htop⟩
    · rw [hsync]; cases s.sync <;> decide
    · rw [herr]; cases s.err <;> decide
    · rw [hphase]; cases s.phase <;> decide
  · exact ⟨getLsbD_cfgWord s 0 (by decide), cfgWord_fields s⟩
  · exact rxChkWord_fields s
  · obtain ⟨hoff, hlen, htop⟩ := tlvResWord_fields s
    exact ⟨hoff, hlen, getLsbD_tlvResWord s 24 (by decide), htop⟩
  · have field {n : Nat} (x : BitVec n) (hn : n ≤ 32) : (x.zeroExtend 32).toNat = x.toNat := by
      rw [BitVec.toNat_setWidth]
      exact Nat.mod_eq_of_lt (lt_of_lt_of_le x.isLt (Nat.pow_le_pow_right (by decide) hn))
    exact ⟨rfl, rfl, rfl, rfl, field s.txLen (by decide), field s.txCnt (by decide), field s.rxLen (by decide),
      field s.rxCnt (by decide), field s.winBase (by decide), field s.winLen (by decide), field s.res (by decide)⟩

/-- Settles O45: no command writes the registers of `Kept`, only RXBUF changes, and a busy host write reaches CFG.IE and
BWE at most. -/
theorem operandsAreStableWhileBusy : Obligations.OperandsAreStableWhileBusy := by
  intro s t hb hr hs
  rcases step_cases s t hs with ⟨h, _⟩ | ⟨_, u, hu, rfl⟩
  · simp [hr] at h
  obtain ⟨k, _, hm⟩ := edgeResult_busy s u hu hb
  obtain ⟨ie, done, bwe, reads, e, _⟩ := endEdge_busy s u hb
  refine ⟨by rw [e]; exact k.deadline, by rw [e]; exact k.txLen, by rw [e]; exact k.winBase, by rw [e]; exact k.winLen,
    by rw [e]; exact k.marker, fun j => ?_, fun a v hw hl => ?_, fun hno => ?_⟩
  · exact bufRead_tx_of_edge s _ (by rw [e]; exact k.txbufCap) (by rw [e]; exact k.rxbufCap) (by rw [e]; exact k.epoch)
      (by rw [e]; exact hm) j
  · rw [endEdge_write s u a v hw]
    exact ⟨by rw [hostWrite_ie, if_pos hl], (hostWrite_cfg_bwe _ _ a v u hl).trans k.bwe⟩
  · exact (endEdge_ie s u hno).trans k.ie

/-- Settles O46: no command writes BWE, so the host's transaction alone decides. -/
theorem bweIsSetByDroppedWrites : Obligations.BweIsSetByDroppedWrites := by
  intro s t hr hs
  rcases step_cases s t hs with ⟨h, _⟩ | ⟨_, u, hu, rfl⟩
  · simp [hr] at h
  obtain ⟨_, _, hbwe⟩ := edgeResult_keeps s u hu
  rw [endEdge_bwe, hbwe]

/-- Settles O52: a completion sets DONE, and the host's W1C at the same edge does not clear it. -/
theorem completionIsNeverLost : Obligations.CompletionIsNeverLost := by
  intro s t hb hr hs ht
  rcases step_cases s t hs with ⟨h, _⟩ | ⟨_, u, hu, rfl⟩
  · simp [hr] at h
  obtain ⟨_, hd, _⟩ := edgeResult_busy s u hu hb
  obtain ⟨ie, done, bwe, reads, e, _, hkeep⟩ := endEdge_busy s u hb
  rw [e] at ht ⊢
  exact (hkeep ht).trans (hd ht)

/-- Settles O49: an idle edge that runs no command, and the host's write to the register. -/
theorem idleRegisterWrite : Obligations.IdleRegisterWrite := by
  intro s a v hb hr hh
  have key (r : Reg) (hl : locate a = .reg r) (hc : r ≠ .cmd) :
      step s = .next { writeReg false false r v s with inputs := s.inputs.tail, hostReads := s.hostReads } := by
    rw [step_idle_write s a v hb hr hh (by simp [hl, hc])]
    simp only [hostWrite, hl]
  refine ⟨fun hl => key _ hl nofun, fun hl => key _ hl nofun, fun hl => key _ hl nofun, fun hl => key _ hl nofun,
    fun hl => key _ hl nofun, fun hl => ?_⟩
  simpa [writeReg, writeStatus] using key _ hl nofun

end Sys2Proof.Machine
end

section
/-! SUPPORT. An edge seen with and without its host transaction (20_memory.md R60, R63, R77), what a word written to a
buffer window reads back as (R64, R65), which commands keep the buffers (R73), and a stalled TX byte (R67). -/

namespace Sys2Proof.Machine

/-! The engine's own step at an edge at which the host gives no command (44_control.md R208). -/

/-- The engine's step when the host neither aborts the executing command nor starts one: the executing command's step
while busy, nothing while idle. -/
def ownStep (s : State) : State := if s.busy then engineStep s else s

theorem ownStep_busy (s : State) (h : s.busy = true) : ownStep s = engineStep s := if_pos h

theorem ownStep_idle (s : State) (h : s.busy = false) : ownStep s = s := by simp [ownStep, h]

/-- The host gives no command at the next edge: it does not write CMD, or it writes no ABORT while a command executes. -/
def GivesNoCommand (s : State) : Prop :=
  cmdWord s.input.host = none ∨ s.busy = true ∧ cmdWord s.input.host ≠ some abortWord

/-- Such an edge is the engine's own step, and then the host's transaction. -/
theorem step_of_no_command (s : State) (hr : s.input.rst = false) (hc : GivesNoCommand s) :
    step s = .next (endEdge s (ownStep s)) := by
  obtain ⟨t, ht, hres⟩ := step_edge s hr
  rw [ht]
  cases hres with
  | executed busy => rw [ownStep_busy s busy]
  | noCommand idle => rw [ownStep_idle s idle]
  | aborted _ written => simp [GivesNoCommand, written] at hc
  | idleAbort idle w written => simp [GivesNoCommand, idle, written] at hc
  | accepted idle w i written => simp [GivesNoCommand, idle, written] at hc
  | acceptedIllegal idle w e written => simp [GivesNoCommand, idle, written] at hc

/-- An edge at which the host reads. -/
theorem endEdge_read (pre post : State) (a : Addr) (h : pre.input.host = .read a) :
    endEdge pre post = { post with inputs := pre.inputs.tail, hostReads := pre.hostReads ++ [hostRead pre a] } := by
  simp [endEdge, hostEffect, readWords, h]

/-! The same edge without the host. -/

/-- The engine's own step does not look at the host's transaction. -/
theorem ownStep_withoutHost (s : State) :
    ownStep (withoutHost s) = { ownStep s with inputs := (withoutHost s).inputs } := by
  have hsame : SameForCommands s (withoutHost s).inputs := ⟨rfl, rfl, rfl, rfl⟩
  cases hb : s.busy with
  | true => rw [ownStep_busy s hb, ownStep_busy (withoutHost s) hb]; exact engineStep_inputs s _ hsame
  | false => rw [ownStep_idle s hb, ownStep_idle (withoutHost s) hb]; rfl

theorem step_withoutHost (s : State) (hr : s.input.rst = false) :
    step (withoutHost s) = .next { ownStep s with inputs := s.inputs.tail, hostReads := s.hostReads } := by
  have hc : GivesNoCommand (withoutHost s) := .inl rfl
  rw [step_of_no_command (withoutHost s) hr hc, endEdge_noHost _ _ rfl, ownStep_withoutHost]
  rfl

/-- A reset edge does not look at the host's transaction but for the word that a read returns
(70_reset_and_hazards.md R250). -/
theorem step_withoutHost_reset (s : State) (hr : s.input.rst = true) :
    step (withoutHost s) = .next (resetEdge s []) :=
  step_reset (withoutHost s) hr

/-- While BUSY = 1 a dropped write sets BWE and does nothing else (20_memory.md R77, 44_control.md R201). -/
theorem hostWrite_dropped (completed : Bool) (a : Addr) (v : Word) (s : State) (h : DropsWhenBusy a v) :
    hostWrite true completed a v s = dropWrite s := by
  rcases h with ⟨sel, i, hl⟩ | hl | ⟨hl, hv⟩
  · simp [hostWrite, hl]
  · simp only [List.mem_cons, List.not_mem_nil, or_false] at hl
    rcases hl with hl | hl | hl | hl <;> simp [hostWrite, hl, writeReg]
  · simp [hostWrite, hl, writeReg, hv]

/-- What stands at an address that takes no write: nothing, or a register that is read-only (10_state.md R46,
20_memory.md R63). -/
def readOnlyLocs : List Loc :=
  [.unmapped, .reg .id, .reg .elapsed, .reg .txCnt, .reg .rxLen, .reg .rxCnt, .reg .rxChk, .reg .rxTotal, .reg .res,
    .reg .tlvRes, .reg .caps]

/-- A write there does nothing, busy or not (20_memory.md R63). -/
theorem hostWrite_readOnly (busy completed : Bool) (a : Addr) (v : Word) (s : State) (h : locate a ∈ readOnlyLocs) :
    hostWrite busy completed a v s = s := by
  simp only [readOnlyLocs, List.mem_cons, List.not_mem_nil, or_false] at h
  rcases h with hl | hl | hl | hl | hl | hl | hl | hl | hl | hl | hl <;> simp [hostWrite, hl, writeReg]

/-! A word of a buffer window (20_memory.md R64, R65). -/

/-- A buffer write reaches the memory only. -/
theorem bufWrite_eq (s : State) (sel : Sel) (i : Nat) (v : Byte) :
    bufWrite s sel i v = { s with mem := (bufWrite s sel i v).mem } := by
  unfold bufWrite; split <;> rfl

theorem writeBufWord_eq (s : State) (sel : Sel) (i : Nat) (v : Word) :
    writeBufWord s sel i v = { s with mem := (writeBufWord s sel i v).mem } := by
  unfold writeBufWord
  generalize byteLane v 0 = b0, byteLane v 1 = b1, byteLane v 2 = b2, byteLane v 3 = b3
  rw [bufWrite_eq _ sel (i + 3), bufWrite_eq _ sel (i + 2), bufWrite_eq _ sel (i + 1), bufWrite_eq s sel i]

/-- A byte at or past the capacity reads 0 (20_memory.md R65). -/
theorem bufRead_past (s : State) (sel : Sel) (i : Nat) (h : ¬ i < cap s sel) : bufRead s sel i = 0#8 := if_neg h

/-- Every byte of both buffers after a write to one byte. -/
theorem bufRead_bufWrite (s : State) (sel sel' : Sel) (i j : Nat) (v : Byte) :
    bufRead (bufWrite s sel i v) sel' j =
      if sel' = sel ∧ j = i then if i < cap s sel then v else 0#8 else bufRead s sel' j := by
  split
  case isTrue h =>
    obtain ⟨rfl, rfl⟩ := h
    split
    case isTrue hj => exact bufRead_bufWrite_same s sel' j v hj
    case isFalse hj => exact bufRead_past _ _ _ (by rwa [cap_bufWrite])
  case isFalse h => exact bufRead_bufWrite_ne s sel sel' i j v (not_and_or.mp h)

/-- The four bytes of a word written to a window. -/
theorem bufRead_writeBufWord_lane (s : State) (sel : Sel) (i j : Nat) (v : Word) (h : j < 4) :
    bufRead (writeBufWord s sel i v) sel (i + j) = if i + j < cap s sel then byteLane v j else 0#8 := by
  unfold writeBufWord
  interval_cases j <;> simp [bufRead_bufWrite]

/-- Every byte outside the word. -/
theorem bufRead_writeBufWord_other (s : State) (sel sel' : Sel) (i k : Nat) (v : Word)
    (h : sel' ≠ sel ∨ k < i ∨ i + 4 ≤ k) : bufRead (writeBufWord s sel i v) sel' k = bufRead s sel' k := by
  have hne (j : Nat) (hj : j < 4) : sel' ≠ sel ∨ k ≠ i + j := h.imp_right fun hk => by omega
  unfold writeBufWord
  rw [bufRead_bufWrite_ne _ _ _ _ _ _ (hne 3 (by decide)), bufRead_bufWrite_ne _ _ _ _ _ _ (hne 2 (by decide)),
    bufRead_bufWrite_ne _ _ _ _ _ _ (hne 1 (by decide)), bufRead_bufWrite_ne s sel sel' i k _ (hne 0 (by decide))]

theorem hostRead_of_buf (s : State) (a : Addr) (sel : Sel) (i : Nat) (h : locate a = .buf sel i) :
    hostRead s a = readBufWord s sel i := by
  simp [hostRead, h]

/-- A word of a window is read little-endian. -/
theorem readBufWord_lane (s : State) (sel : Sel) (i j : Nat) (h : j < 4) :
    (readBufWord s sel i).extractLsb' (8 * j) 8 = bufRead s sel (i + j) := by
  refine extractLsb'_eq_of_bits _ _ _ fun k hk => ?_
  refine BitVec.getLsbD_append.trans ?_
  simp only [BitVec.getLsbD_append]
  interval_cases j <;> interval_cases k <;> rfl

/-! The buffer bytes across a command (20_memory.md R73). -/

/-- Both buffers are the same in the two states, byte by byte and in their capacities. -/
structure SameBuffers (s t : State) : Prop where
  txbufCap : t.txbufCap = s.txbufCap
  rxbufCap : t.rxbufCap = s.rxbufCap
  mem : t.mem = s.mem
  epoch : t.epoch = s.epoch

theorem SameBuffers.bufRead {s t : State} (h : SameBuffers s t) (sel : Sel) (k : Nat) :
    bufRead t sel k = bufRead s sel k :=
  bufRead_congr s t sel k h.txbufCap h.rxbufCap h.mem h.epoch

theorem SameBuffers.refl (s : State) : SameBuffers s s := ⟨rfl, rfl, rfl, rfl⟩

theorem Kept.sameBuffers {s t : State} (h : Kept s t) (hm : t.mem = s.mem) : SameBuffers s t :=
  ⟨h.txbufCap, h.rxbufCap, hm, h.epoch⟩

theorem accept_sameBuffers (w : Word) (s : State) : SameBuffers s (accept w s) := by
  rcases accept_cases w s with ⟨_, e⟩ | ⟨_, _, e⟩ | ⟨_, _, e⟩ | ⟨_, _, e⟩ | ⟨_, _, _, _, _, e⟩ <;> rw [e] <;>
    exact ⟨rfl, rfl, rfl, rfl⟩

/-- A command whose execution keeps the buffers keeps them at its acceptance, and when its static check failed, too. -/
theorem commandEdge_sameBuffers (i : Instr) (body : State → State) (s : State)
    (h : s.busy = true → s.pendErr = .ok → SameBuffers s (body s)) : SameBuffers s (commandEdge i body s) := by
  cases hb : s.busy with
  | false => rw [commandEdge_idle i body s hb]; exact accept_sameBuffers _ s
  | true =>
    rw [commandEdge_busy i body s hb]
    by_cases hp : s.pendErr = .ok
    · rw [unlessPending_ok body s hp]; exact h hb hp
    · rw [unlessPending_err body s hp]; exact ⟨rfl, rfl, rfl, rfl⟩

theorem atLatency_sameBuffers (body : State → State) (s : State) (h : SameBuffers s (body s)) :
    SameBuffers s (atLatency body s) := by
  unfold atLatency
  split
  · exact h
  · exact ⟨rfl, rfl, rfl, rfl⟩

theorem writeFrameBody_sameBuffers (s : State) : SameBuffers s (writeFrameBody s) := by
  unfold writeFrameBody
  split
  · split <;> exact ⟨rfl, rfl, rfl, rfl⟩
  · exact .refl s

theorem findTagBody_sameBuffers (tag : Byte) (sel : Sel) (s : State) : SameBuffers s (findTagBody tag sel s) := by
  unfold findTagBody
  split <;> exact ⟨rfl, rfl, rfl, rfl⟩

/-- No command but READ_FRAME, and an ABORT of it, can change a buffer byte. -/
theorem exec_sameBuffers (i : Instr) (s t : State) (hr : i ≠ .readFrame) (ha : i ≠ .abort) (h : exec i s = .next t) :
    SameBuffers s t := by
  have ofBody (body : State → State) (hbody : SameBuffers s (body s))
      (he : exec i s = .next (commandEdge i body s)) : SameBuffers s t := by
    rw [he] at h
    injection h with h
    exact h ▸ commandEdge_sameBuffers i body s fun _ _ => hbody
  cases i with
  | nop => exact ofBody nopBody ⟨rfl, rfl, rfl, rfl⟩ rfl
  | lcsGen len16 => exact ofBody (lcsGenBody len16) ⟨rfl, rfl, rfl, rfl⟩ rfl
  | dcsGen sel => exact ofBody _ (atLatency_sameBuffers (dcsGenBody sel) s ⟨rfl, rfl, rfl, rfl⟩) rfl
  | preStep byte => exact ofBody (preStepBody byte) ⟨rfl, rfl, rfl, rfl⟩ rfl
  | preClr => exact ofBody preClrBody ⟨rfl, rfl, rfl, rfl⟩ rfl
  | writeFrame => exact ofBody writeFrameBody (writeFrameBody_sameBuffers s) rfl
  | findTag tag sel => exact ofBody _ (atLatency_sameBuffers _ s (findTagBody_sameBuffers tag sel s)) rfl
  | readFrame => exact absurd rfl hr
  | abort => exact absurd rfl ha

/-- READ_FRAME stores a payload byte at the next edge, if it executes: PHASE is PAY, the deadline has not passed, and the
RX source presents a byte (41_frame_reader.md R127, R137). -/
def PayloadByteArrives (s : State) : Prop :=
  s.phase = .pay ∧ s.input.rxValid = true ∧ s.elapsed.toNat < s.deadline.toNat

/-- A buffer byte that differs after READ_FRAME's step is the payload byte stored at RXBUF[RX_CNT]. -/
theorem payloadByte_of_bufRead_ne (s t : State) (hk : Kept s t) (hm : t.mem = (readFrameBody s).mem) (sel : Sel)
    (k : Nat) (hne : bufRead t sel k ≠ bufRead s sel k) :
    PayloadByteArrives s ∧ sel = .rx ∧ k = s.rxCnt.toNat := by
  obtain ⟨_, _, _, hmem⟩ := readFrameBody_kept s
  rw [hmem] at hm
  split at hm
  case isTrue h =>
    obtain ⟨hdeadline, hvalid, hphase⟩ := h
    have hread : bufRead t sel k = bufRead (bufWrite s .rx s.rxCnt.toNat s.input.rxData) sel k :=
      bufRead_congr _ t sel k (by simp [hk.txbufCap]) (by simp [hk.rxbufCap]) hm (by simp [hk.epoch])
    have hat : sel = .rx ∧ k = s.rxCnt.toNat := by
      by_contra hno
      exact hne (hread.trans (bufRead_bufWrite_ne _ _ _ _ _ _ (not_and_or.mp hno)))
    exact ⟨⟨hphase, hvalid, by simpa [BitVec.ult] using hdeadline⟩, hat⟩
  case isFalse => exact absurd ((hk.sameBuffers hm).bufRead sel k) hne

/-- READ_FRAME changes a buffer byte only while it executes and a payload byte arrives. -/
theorem readFrame_bufRead_ne (s t : State) (h : exec .readFrame s = .next t) (sel : Sel) (k : Nat)
    (hne : bufRead t sel k ≠ bufRead s sel k) :
    (s.busy = true ∧ s.pendErr = .ok) ∧ PayloadByteArrives s ∧ sel = .rx ∧ k = s.rxCnt.toNat := by
  have ht : commandEdge .readFrame readFrameBody s = t := by injection h
  subst ht
  have hrun : s.busy = true ∧ s.pendErr = .ok := by
    by_contra hno
    exact hne ((commandEdge_sameBuffers _ _ s fun hb hp => absurd ⟨hb, hp⟩ hno).bufRead sel k)
  rw [commandEdge_busy _ _ s hrun.1, unlessPending_ok _ s hrun.2] at hne
  exact ⟨hrun, payloadByte_of_bufRead_ne s _ (readFrameBody_kept s).1 rfl sel k hne⟩

/-- ABORT changes a buffer byte only as the own step of the READ_FRAME that it ends does (44_control.md R205). -/
theorem abort_bufRead_ne (s t : State) (h : exec .abort s = .next t) (sel : Sel) (k : Nat)
    (hne : bufRead t sel k ≠ bufRead s sel k) :
    readingFrame s ∧ PayloadByteArrives s ∧ sel = .rx ∧ k = s.rxCnt.toNat := by
  have ht : (if s.busy then abortEdge s else s) = t := by injection h
  subst ht
  cases hb : s.busy with
  | false => simp [hb] at hne
  | true =>
    rw [if_pos hb] at hne
    obtain ⟨hkept, _, _, hmem, _⟩ := abortEdge_kept s
    obtain ⟨_, _, hengine⟩ := engineStep_kept s
    rw [hengine] at hmem
    split at hmem
    case isTrue hread =>
      obtain ⟨hp, he⟩ := hread
      exact ⟨⟨hb, op_of_executing s .readFrame he, hp⟩, payloadByte_of_bufRead_ne s _ hkept hmem sel k hne⟩
    case isFalse => exact absurd ((hkept.sameBuffers hmem).bufRead sel k) hne

/-! The TX stream (20_memory.md R67). -/

theorem writingFrame_of_txValid (s : State) (h : txValid s = true) : writingFrame s := by
  simpa [txValid, writingFrame, and_assoc] using h

/-- A WRITE_FRAME whose byte the sink does not take waits, and changes nothing (42_frame_writer.md R160). -/
theorem engineStep_tx_stalled (s : State) (h : writingFrame s) (hready : s.input.txReady = false) :
    engineStep s = s := by
  obtain ⟨_, hop, hp⟩ := h
  simp [engineStep, executing_writeFrame s hop, unlessPending_ok _ s hp, writeFrameBody, hready]

end Sys2Proof.Machine
end

section
/-! The statements about the host bus and the buffers, settled: dropped and ignored writes, a word of a window, host reads
and idle edges, the byte presented on the TX stream, and which commands change a buffer byte. -/

namespace Sys2Proof.Machine

/-- Settles O5: each command's arm answers `next`, and so do a reset edge and every other edge. -/
theorem everyStepAnswersNext : Obligations.EveryStepAnswersNext := by
  refine ⟨fun s => ?_, fun i s => ?_⟩
  · cases hr : s.input.rst with
    | true => exact ⟨_, step_reset s hr⟩
    | false => obtain ⟨t, ht, _⟩ := step_edge s hr; exact ⟨_, ht⟩
  · cases i <;> exact ⟨_, rfl⟩

/-- Settles O41: READ_FRAME and an ABORT of it by READ_FRAME's own step; no other command touches the buffers. -/
theorem onlyAPayloadByteChangesABuffer : Obligations.OnlyAPayloadByteChangesABuffer := by
  intro s t i h sel k hne
  by_cases hread : i = .readFrame
  · subst hread
    obtain ⟨⟨hb, hp⟩, ⟨hphase, hvalid, hdeadline⟩, hat⟩ := readFrame_bufRead_ne s t h sel k hne
    exact ⟨.inl ⟨rfl, hb, hp⟩, hphase, hvalid, hdeadline, hat⟩
  by_cases habort : i = .abort
  · subst habort
    obtain ⟨hreading, ⟨hphase, hvalid, hdeadline⟩, hat⟩ := abort_bufRead_ne s t h sel k hne
    exact ⟨.inr ⟨rfl, hreading⟩, hphase, hvalid, hdeadline, hat⟩
  exact absurd ((exec_sameBuffers i s t hread habort h).bufRead sel k) hne

/-- Settles O47: a dropped write is no ABORT, so both edges run the executing command's step. -/
theorem droppedWriteChangesOnlyBwe : Obligations.DroppedWriteChangesOnlyBwe := by
  intro s t u hd hr ht hu
  obtain ⟨hb, a, v, hh, hdrop⟩ := (dropsWrite_iff s).mp hd
  have hnoAbort : cmdWord s.input.host ≠ some abortWord := by
    rintro hc
    obtain ⟨hl, rfl⟩ : locate a = .reg .cmd ∧ v = abortWord := by simpa [hh, cmdWord] using hc
    simp [DropsWhenBusy, hl] at hdrop
  rw [step_withoutHost s hr] at ht
  rw [step_of_no_command s hr (.inr ⟨hb, hnoAbort⟩), endEdge_write s _ a v hh, hb, hostWrite_dropped _ a v _ hdrop] at hu
  injection ht with ht
  injection hu with hu
  rw [← ht, ← hu]
  rfl

/-- Settles O48: such a write is no CMD write, and the host's transaction leaves the edge's state as it is; a reset edge
ignores every write. -/
theorem readOnlyAndUnmappedWritesAreIgnored : Obligations.ReadOnlyAndUnmappedWritesAreIgnored := by
  refine fun s a => ⟨fun hl => by simp [hostRead, hl], fun v hh hl => ?_⟩
  cases hr : s.input.rst with
  | true => rw [step_withoutHost_reset s hr, step_reset s hr, show readWords s = [] by simp [readWords, hh]]
  | false =>
    have hcmd : locate a ≠ .reg .cmd := fun e => by simp [e] at hl
    rw [step_withoutHost s hr, step_of_no_command s hr (.inl (by simp [hh, cmdWord, hcmd])), endEdge_write s _ a v hh,
      hostWrite_readOnly _ _ a v _ hl]

/-- Settles O50: the idle edge is the word's write alone, which four byte writes make. -/
theorem idleBufferWordWrite : Obligations.IdleBufferWordWrite := by
  intro s a v sel i hb hr hh hl
  have hstep := step_idle_write s a v hb hr hh (by simp [hl])
  have hw : hostWrite false false a v s = writeBufWord s sel i v := by simp [hostWrite, hl]
  rw [hw] at hstep
  refine ⟨_, hstep, by rw [writeBufWord_eq], fun j hj => ?_, fun j hj => ?_, fun sel' k hk => ?_⟩
  · exact bufRead_writeBufWord_lane s sel i j v hj
  · rw [hostRead_of_buf _ a sel i hl]
    exact readBufWord_lane _ sel i j hj
  · exact bufRead_writeBufWord_other s sel sel' i k v hk

/-- Settles O51: at an idle edge the engine's own step does nothing; at every edge a read appends its word and nothing
else. -/
theorem idleEdgeChangesNothing : Obligations.IdleEdgeChangesNothing := by
  refine ⟨fun s hb hr => ⟨fun hh => ?_, fun a hh => ?_⟩, fun s a hh => ?_⟩
  · rw [step_of_no_command s hr (.inl (by simp [hh, cmdWord])), ownStep_idle s hb, endEdge_noHost s s hh]
  · rw [step_of_no_command s hr (.inl (by simp [hh, cmdWord])), ownStep_idle s hb, endEdge_read s s a hh]
  · cases hr : s.input.rst with
    | true =>
      refine ⟨_, step_withoutHost_reset s hr, List.append_nil _, ?_⟩
      rw [step_reset s hr, show readWords s = [hostRead s a] by simp [readWords, hh]]
      rfl
    | false =>
      refine ⟨_, step_withoutHost s hr, rfl, ?_⟩
      rw [step_of_no_command s hr (.inl (by simp [hh, cmdWord])), endEdge_read s _ a hh]

/-- Settles O54: the stalled WRITE_FRAME changes nothing, and the host reaches no register that the byte depends on. -/
theorem txByteIsStableUntilHandover : Obligations.TxByteIsStableUntilHandover := by
  intro s t hv hready hu hs
  have hw := writingFrame_of_txValid s hv
  obtain ⟨ie, done, bwe, reads, he, _⟩ := step_undisturbed s hw.1 hu
  rw [hs, engineStep_tx_stalled s hw hready] at he
  injection he with he
  subst he
  exact ⟨hv, rfl, rfl⟩

end Sys2Proof.Machine
end

section
/-! SUPPORT. A command word as the concatenation of its fields, and the words that the decoder accepts
(30_encoding.md R80 to R90). -/

namespace Sys2Proof.Machine

/-! The fields of a command word (R80 to R85). -/

/-- SEL as the bit of the word that holds it (R84). -/
def selBit : Sel → BitVec 1
  | .tx => 0#1
  | .rx => 1#1

/-- The word of an instruction as its format lays its fields out, from bit 31 down to OPC (R81 to R85, R87). -/
def fieldsWord : Instr → Word
  | .nop => 0#24 ++ 0x00#8
  | .lcsGen len16 => 0#8 ++ len16 ++ 0x01#8
  | .dcsGen sel => 0#15 ++ selBit sel ++ 0#8 ++ 0x02#8
  | .preStep byte => 0#16 ++ byte ++ 0x03#8
  | .preClr => 0#24 ++ 0x04#8
  | .readFrame => 0#24 ++ 0x05#8
  | .writeFrame => 0#24 ++ 0x06#8
  | .findTag tag sel => 0#15 ++ selBit sel ++ tag ++ 0x07#8
  | .abort => 0#24 ++ 0x0F#8

theorem selBit_ofBit (w : Word) : selBit (Sel.ofBit (w.getLsbD 16)) = w.extractLsb' 16 1 := by
  refine (extractLsb'_eq_of_bits w 16 _ fun k hk => ?_).symm
  obtain rfl : k = 0 := by omega
  cases w.getLsbD 16 <;> rfl

/-- A word is its adjacent fields: OPC and ARG. -/
theorem word_eq_argOf_append (w : Word) : w = argOf w ++ opcodeOf w :=
  (latchedWord_latch State.reset w).symm

/-- The fields of format N, whose ARG is 0 (R81). -/
theorem word_eq_formatN_fields (w : Word) (opc : Byte) (op : opcodeOf w = opc) (zero : w.extractLsb' 8 24 = 0#24) :
    w = 0#24 ++ opc := by
  rw [← op, ← zero]
  exact word_eq_argOf_append w

/-- The fields of format L (R82). -/
theorem word_eq_formatL_fields (w : Word) :
    w = w.extractLsb' 24 8 ++ w.extractLsb' 8 16 ++ opcodeOf w := by
  have join : w.extractLsb' 24 8 ++ w.extractLsb' 8 16 = argOf w :=
    BitVec.extractLsb'_append_extractLsb'_eq_extractLsb' rfl
  rw [join]
  exact word_eq_argOf_append w

/-- The fields of format B (R83). -/
theorem word_eq_formatB_fields (w : Word) :
    w = w.extractLsb' 16 16 ++ w.extractLsb' 8 8 ++ opcodeOf w := by
  have join : w.extractLsb' 16 16 ++ w.extractLsb' 8 8 = argOf w :=
    BitVec.extractLsb'_append_extractLsb'_eq_extractLsb' rfl
  rw [join]
  exact word_eq_argOf_append w

/-- The fields of the formats S and T (R84, R85). -/
theorem word_eq_formatT_fields (w : Word) :
    w = w.extractLsb' 17 15 ++ w.extractLsb' 16 1 ++ w.extractLsb' 8 8 ++ opcodeOf w := by
  have join : w.extractLsb' 17 15 ++ w.extractLsb' 16 1 = w.extractLsb' 16 16 :=
    BitVec.extractLsb'_append_extractLsb'_eq_extractLsb' rfl
  rw [join]
  exact word_eq_formatB_fields w

/-- A word that decodes to a command is made of the command's fields: no bit of it is dropped. -/
theorem eq_fieldsWord_of_decode (w : Word) (i : Instr) (h : decode w = .ok i) : w = fieldsWord i := by
  cases decode_cases w i h with
  | nop op zero => exact word_eq_formatN_fields w _ op zero
  | lcsGen op zero =>
    rw [fieldsWord, ← op, ← zero]
    exact word_eq_formatL_fields w
  | dcsGen op zero zero' =>
    rw [fieldsWord, selBit_ofBit, ← op, ← zero, ← zero']
    exact word_eq_formatT_fields w
  | preStep op zero =>
    rw [fieldsWord, ← op, ← zero]
    exact word_eq_formatB_fields w
  | preClr op zero => exact word_eq_formatN_fields w _ op zero
  | readFrame op zero => exact word_eq_formatN_fields w _ op zero
  | writeFrame op zero => exact word_eq_formatN_fields w _ op zero
  | findTag op zero =>
    rw [fieldsWord, selBit_ofBit, ← op, ← zero]
    exact word_eq_formatT_fields w
  | abort op zero => exact word_eq_formatN_fields w _ op zero

/-- The encoder lays out the same fields (R90). -/
theorem encode_eq_fieldsWord (i : Instr) : encode i = fieldsWord i :=
  eq_fieldsWord_of_decode _ i (decode_encode i)

/-! Defined words decode (R87, R88). -/

/-- The converse of `decode_cases`. -/
theorem decode_of_result (w : Word) (i : Instr) (h : DecodeResult w i) : decode w = .ok i := by
  cases h with
  | nop op zero => simp [decode, op, formatN, ifReservedZero_ok, zero]
  | lcsGen op zero => simp [decode, op, formatL, ifReservedZero_ok, zero]
  | dcsGen op zero zero' => simp [decode, op, formatS, ifReservedZero_ok, zero, zero']
  | preStep op zero => simp [decode, op, formatB, ifReservedZero_ok, zero]
  | preClr op zero => simp [decode, op, formatN, ifReservedZero_ok, zero]
  | readFrame op zero => simp [decode, op, formatN, ifReservedZero_ok, zero]
  | writeFrame op zero => simp [decode, op, formatN, ifReservedZero_ok, zero]
  | findTag op zero => simp [decode, op, formatT, ifReservedZero_ok, zero]
  | abort op zero => simp [decode, op, formatN, ifReservedZero_ok, zero]

/-- A field that stands wholly under a row's mask is the field of the row's pattern. -/
theorem field_of_masked (w mask pattern : Word) (lo n : Nat) (h : w &&& mask = pattern)
    (hmask : mask.extractLsb' lo n = BitVec.allOnes n) : w.extractLsb' lo n = pattern.extractLsb' lo n := by
  rw [← h, BitVec.extractLsb'_and, hmask, BitVec.and_allOnes]

/-- A row of the opcode map whose mask is the whole word covers its pattern alone. -/
theorem eq_pattern_of_full_mask (w pattern : Word) (h : w &&& 0xFFFFFFFF#32 = pattern) : w = pattern := by
  rw [← h]
  exact BitVec.and_allOnes.symm

/-- The rows of the opcode map that a defined word can belong to. -/
theorem definedWord_rows (w : Word) (h : definedWord w = true) :
    ∃ r ∈ opcodeRows, w &&& r.mask = r.pattern := by
  obtain ⟨r, hr, hc⟩ := List.any_eq_true.mp h
  exact ⟨r, hr, beq_iff_eq.mp hc⟩

/-- Every defined word decodes: the fields under its row's mask are what its format asks for. -/
theorem decode_of_definedWord (w : Word) (h : definedWord w = true) : ∃ i, decode w = .ok i := by
  obtain ⟨r, hr, hw⟩ := definedWord_rows w h
  simp only [opcodeRows, List.mem_cons, List.not_mem_nil, or_false] at hr
  rcases hr with rfl | rfl | rfl | rfl | rfl | rfl | rfl | rfl | rfl
  · exact ⟨.nop, eq_pattern_of_full_mask w _ hw ▸ decode_encode .nop⟩
  · exact ⟨_, decode_of_result w _ (.lcsGen (field_of_masked w _ _ 0 8 hw rfl) (field_of_masked w _ _ 24 8 hw rfl))⟩
  · exact ⟨_, decode_of_result w _ (.dcsGen (field_of_masked w _ _ 0 8 hw rfl) (field_of_masked w _ _ 17 15 hw rfl)
      (field_of_masked w _ _ 8 8 hw rfl))⟩
  · exact ⟨_, decode_of_result w _ (.preStep (field_of_masked w _ _ 0 8 hw rfl) (field_of_masked w _ _ 16 16 hw rfl))⟩
  · exact ⟨.preClr, eq_pattern_of_full_mask w _ hw ▸ decode_encode .preClr⟩
  · exact ⟨.readFrame, eq_pattern_of_full_mask w _ hw ▸ decode_encode .readFrame⟩
  · exact ⟨.writeFrame, eq_pattern_of_full_mask w _ hw ▸ decode_encode .writeFrame⟩
  · exact ⟨_, decode_of_result w _ (.findTag (field_of_masked w _ _ 0 8 hw rfl) (field_of_masked w _ _ 17 15 hw rfl))⟩
  · exact ⟨.abort, eq_pattern_of_full_mask w _ hw ▸ decode_encode .abort⟩

end Sys2Proof.Machine
end

section
/-! The statements about the encoding, settled: the decoder against the encoder, against the opcode map, and against words
written out from the formats. -/

namespace Sys2Proof.Machine

/-- Settles O1: the word that decodes to a command, and the command's own word, are made of the same fields. -/
theorem decodeInvertsEncode : Obligations.DecodeInvertsEncode := by
  refine fun i w _ => ⟨fun hd => ?_, fun hw => hw ▸ decode_encode i⟩
  exact (eq_fieldsWord_of_decode w i hd).trans (encode_eq_fieldsWord i).symm

/-- Settles O2: each row of the opcode map against the format of its command. -/
theorem decoderAcceptsExactlyDefinedWords : Obligations.DecoderAcceptsExactlyDefinedWords :=
  fun w => ⟨fun ⟨i, hd⟩ => definedWord_of_decode w i hd, decode_of_definedWord w⟩

/-- Settles O3: the nine defined words are the encoder's, and the decoder refuses the other two by evaluation. -/
theorem writtenOutWordsDecode : Obligations.WrittenOutWordsDecode :=
  ⟨decode_encode .nop, decode_encode (.lcsGen 0x1234#16), decode_encode (.dcsGen .rx), decode_encode (.preStep 0xFF#8),
    decode_encode .preClr, decode_encode .readFrame, decode_encode .writeFrame, decode_encode (.findTag 0x97#8 .rx),
    decode_encode .abort, by decide, by decide⟩

end Sys2Proof.Machine
end

section
/-! SUPPORT. READ_FRAME over a script that presents one byte at every edge: the run is the fold of `takeByte` over the
bytes, up to what the host and the environment write (41_frame_reader.md R127, R142). -/

namespace Sys2Proof.Machine

/-! The automaton (41_frame_reader.md R121, R122). -/

/-- The part of the preamble pattern that the automaton's state stands for (R122). -/
def seenPattern : Sync → List Byte
  | .waitPre => []
  | .waitSb1 => [0x00#8]
  | .waitSb2 => [0x00#8, 0x00#8]
  | .matched => preamblePattern

/-- One byte extends the part seen, or cuts it to what the bytes still end with. -/
theorem seenPattern_delta (q : Sync) (b : Byte) : seenPattern (delta q b) <:+ seenPattern q ++ [b] := by
  cases q with
  | waitPre =>
    by_cases h : b = 0x00#8
    · rw [h]; exact List.suffix_rfl
    · simp [delta, h, seenPattern]
  | waitSb1 =>
    by_cases h : b = 0x00#8
    · rw [h]; exact List.suffix_rfl
    · simp [delta, h, seenPattern]
  | waitSb2 =>
    by_cases h : b = 0x00#8
    · rw [h]; exact ⟨[0x00#8], rfl⟩
    · by_cases hf : b = 0xFF#8
      · rw [hf]; exact List.suffix_rfl
      · simp [delta, h, hf, seenPattern]
  | matched =>
    by_cases h : b = 0x00#8
    · rw [h]; exact ⟨preamblePattern, rfl⟩
    · simp [delta, h, seenPattern]

theorem deltaRun_concat (q : Sync) (bs : List Byte) (b : Byte) :
    deltaRun q (bs ++ [b]) = delta (deltaRun q bs) b := List.foldl_concat ..

/-- The bytes end with the part of the pattern that the automaton's state stands for. -/
theorem seenPattern_deltaRun (bs : List Byte) : seenPattern (deltaRun .waitPre bs) <:+ bs := by
  induction bs using List.reverseRecOn with
  | nil => exact List.suffix_rfl
  | append_singleton bs b ih =>
    rw [deltaRun_concat]
    exact (seenPattern_delta _ b).trans (List.suffix_append_self_iff.mpr ih)

/-- Bytes without the pattern do not lead to MATCHED. -/
theorem deltaRun_ne_matched (bs : List Byte) (h : ¬ preamblePattern <:+: bs) : deltaRun .waitPre bs ≠ .matched := by
  intro hm
  have hs := seenPattern_deltaRun bs
  rw [hm] at hs
  exact h hs.isInfix

/-! The bytes taken one after the other. -/

/-- READ_FRAME takes the bytes `bs` (R127). -/
def takeBytes (bs : List Byte) (s : State) : State := bs.foldl (fun t b => takeByte b t) s

@[simp] theorem takeBytes_nil (s : State) : takeBytes [] s = s := rfl

@[simp] theorem takeBytes_cons (b : Byte) (bs : List Byte) (s : State) :
    takeBytes (b :: bs) s = takeBytes bs (takeByte b s) := rfl

theorem takeBytes_append (bs cs : List Byte) (s : State) : takeBytes (bs ++ cs) s = takeBytes cs (takeBytes bs s) :=
  List.foldl_append

/-- A command that is executing after the bytes was executing before them. -/
theorem busy_of_takeBytes (bs : List Byte) (s : State) (h : (takeBytes bs s).busy = true) : s.busy = true := by
  induction bs generalizing s with
  | nil => exact h
  | cons b bs ih =>
    obtain ⟨_, _, _, hbusy, _⟩ := takeByte_kept b s
    exact hbusy (ih _ h)

/-- The state but for what the host and the environment write while a command executes, and ELAPSED: two states with the
same reader's part differ in nothing that the rules of the phases read. -/
def readerPart (s : State) : State :=
  { s with
    ie := false, done := !s.busy && s.done, bwe := false, elapsed := 0#32, inputs := [], hostReads := [] }

/-- The host's and the environment's fields are no part of it, but for a DONE that stands after a completion. -/
theorem readerPart_host (s : State) (ie done bwe : Bool) (l : List Input) (reads : List Word)
    (h : s.busy = false → done = s.done) :
    readerPart { s with ie := ie, done := done, bwe := bwe, inputs := l, hostReads := reads } = readerPart s := by
  cases hb : s.busy <;> simp_all [readerPart]

/-- A completion shows in the reader's part. -/
theorem completed_of_readerPart {s t : State} (h : readerPart t = readerPart s) (hb : s.busy = false) :
    t.busy = false ∧ t.done = s.done := by
  have hb' : (readerPart t).busy = (readerPart s).busy := by rw [h]
  have hd : (readerPart t).done = (readerPart s).done := by rw [h]
  have hbt : t.busy = false := hb'.trans hb
  exact ⟨hbt, by simpa [readerPart, hbt, hb] using hd⟩

theorem rxTotal_of_readerPart {s t : State} (h : readerPart t = readerPart s) : t.rxTotal = s.rxTotal := by
  have ht : (readerPart t).rxTotal = (readerPart s).rxTotal := by rw [h]
  exact ht

theorem bufWrite_readerPart (s : State) (sel : Sel) (i : Nat) (v : Byte) :
    bufWrite (readerPart s) sel i v = readerPart (bufWrite s sel i v) := by
  have hc : cap (readerPart s) sel = cap s sel := cap_congr s _ rfl rfl sel
  unfold bufWrite
  rw [hc]
  split <;> rfl

theorem applyPhase_readerPart (b : Byte) (s : State) :
    applyPhase b (readerPart s) = readerPart (applyPhase b s) := by
  have e : (readerPart s).phase = s.phase := rfl
  unfold applyPhase
  rw [e]
  split
  case h_2 => simp only [onSync, apply_ite readerPart]; rfl
  case h_5 => simp only [onLcs, apply_ite readerPart]; rfl
  case h_7 => unfold onPay; rw [bufWrite_readerPart]; rfl
  case h_9 => simp only [onPost, apply_ite readerPart]; rfl
  all_goals rfl

theorem takeByte_readerPart (b : Byte) (s : State) : takeByte b (readerPart s) = readerPart (takeByte b s) :=
  applyPhase_readerPart b { s with rxTotal := satSucc s.rxTotal }

theorem takeBytes_readerPart (bs : List Byte) (s : State) :
    takeBytes bs (readerPart s) = readerPart (takeBytes bs s) :=
  List.foldl_hom readerPart fun s b => takeByte_readerPart b s

/-- The rules of the phases see the reader's part alone. -/
theorem takeBytes_congr (bs : List Byte) (s t : State) (h : readerPart s = readerPart t) :
    readerPart (takeBytes bs s) = readerPart (takeBytes bs t) := by
  rw [← takeBytes_readerPart, ← takeBytes_readerPart, h]

/-! The run. -/

/-- READ_FRAME executes, and the script presents it the bytes `bs`, one at every edge, before its deadline. -/
structure Offered (s : State) (ins rest : List Input) (bs : List Byte) : Prop where
  reading : readingFrame s
  script : s.inputs = ins ++ rest
  bytes : presents ins bs
  inTime : s.elapsed.toNat + tickCount ins < s.deadline.toNat

theorem tickCount_cons (i : Input) (ins : List Input) :
    tickCount (i :: ins) = tickCount ins + if i.tick = true then 1 else 0 := List.countP_cons

/-- A tick is counted in ELAPSED, if at all, and nowhere else (R131). -/
theorem countTick_readerPart (tick : Bool) (s : State) : readerPart (countTick tick s) = readerPart s := by
  rcases countTick_cases tick s with ⟨_, _, e⟩ | ⟨_, e⟩
  · rw [e]
    rfl
  · rw [e]

theorem countTick_elapsed_le (tick : Bool) (s : State) :
    (countTick tick s).elapsed.toNat ≤ s.elapsed.toNat + if tick = true then 1 else 0 := by
  rcases countTick_cases tick s with ⟨ht, _, e⟩ | ⟨_, e⟩ <;> rw [e]
  · rw [if_pos ht, BitVec.toNat_add]
    exact Nat.mod_le _ _
  · exact Nat.le_add_right _ _

/-- The executing command's step is READ_FRAME's. -/
theorem engineStep_of_readingFrame (s : State) (h : readingFrame s) : engineStep s = readFrameBody s := by
  obtain ⟨_, hop, hp⟩ := h
  simp [engineStep, executing_readFrame s hop, unlessPending_ok _ s hp]

/-- One edge takes one byte, and the script goes on (R127). -/
theorem step_takesByte (s : State) (i : Input) (ins rest : List Input) (b : Byte) (bs : List Byte)
    (h : Offered s (i :: ins) rest (b :: bs)) :
    ∃ t, step s = .next t ∧ readerPart t = readerPart (takeByte b s) ∧ (t.busy = true → Offered t ins rest bs) := by
  obtain ⟨hread, hscript, hbytes, htime⟩ := h
  obtain ⟨⟨hu, hv, hd⟩, hrest⟩ := List.forall₂_cons.mp hbytes
  have hin : s.input = i := input_cons s i _ hscript
  rw [tickCount_cons] at htime
  have hult : s.elapsed.ult s.deadline = true := by
    simp only [BitVec.ult, decide_eq_true_eq]
    omega
  have hstep : engineStep s = countTick i.tick (takeByte b s) := by
    rw [engineStep_of_readingFrame s hread, readFrameBody_byte s hult (by rw [hin, hv]), hin, hd]
  obtain ⟨ie, done, bwe, reads, hs, hdone⟩ := step_undisturbed s hread.1 (hin ▸ hu)
  obtain ⟨_, hel, _⟩ := takeByte_kept b s
  have hle := countTick_elapsed_le i.tick (takeByte b s)
  obtain ⟨k, _⟩ := engineStep_kept s
  refine ⟨_, hs, ?_, fun hb => ⟨⟨hb, ?_, ?_⟩, ?_, hrest, ?_⟩⟩
  · rw [readerPart_host _ ie done bwe _ reads hdone, hstep, countTick_readerPart]
  · exact k.op.trans hread.2.1
  · exact k.pendErr.trans hread.2.2
  · simp [hscript]
  · show (engineStep s).elapsed.toNat + tickCount ins < (engineStep s).deadline.toNat
    rw [k.deadline, hstep]
    rw [hel] at hle
    omega

/-- READ_FRAME executing after all bytes but the last takes them all, one at each edge. -/
theorem run_takesBytes (s : State) (ins rest : List Input) (bs : List Byte) (b : Byte)
    (h : Offered s ins rest (bs ++ [b])) (hb : (takeBytes bs s).busy = true) :
    ∃ t, runsTo ins.length s t ∧ readerPart t = readerPart (takeBytes (bs ++ [b]) s) := by
  induction bs generalizing s ins with
  | nil =>
    cases ins with
    | nil => cases h.bytes
    | cons i ins =>
      obtain ⟨t, hs, hpart, _⟩ := step_takesByte s i ins rest b [] h
      cases h.bytes with
      | cons _ hnil =>
        cases hnil
        exact ⟨t, (runsTo_succ 0 s t t hs).mpr ((runsTo_zero t t).mpr rfl), hpart⟩
  | cons c bs ih =>
    cases ins with
    | nil => cases h.bytes
    | cons i ins =>
      obtain ⟨t, hs, hpart, hgo⟩ := step_takesByte s i ins rest c (bs ++ [b]) h
      have hrest : (takeBytes bs t).busy = true := (congrArg State.busy (takeBytes_congr bs t _ hpart)).trans hb
      obtain ⟨u, hu, hfin⟩ := ih t ins (hgo (busy_of_takeBytes bs t hrest)) hrest
      exact ⟨u, (runsTo_succ _ s t u hs).mpr hu, hfin.trans (takeBytes_congr (bs ++ [b]) t _ hpart)⟩

end Sys2Proof.Machine
end

section
/-! SUPPORT. READ_FRAME byte by byte over the parts of a frame: the garbage before it, the preamble, an ACK's bytes, and
the count of them all (41_frame_reader.md R130, R132 to R136). -/

namespace Sys2Proof.Machine

/-- A count that saturates (R130). -/
theorem satSucc_toNat (n : BitVec 32) : (satSucc n).toNat = min (n.toNat + 1) 0xFFFFFFFF := by
  have := n.isLt
  unfold satSucc
  split
  case isTrue h => rw [h]; rfl
  case isFalse h =>
    have hne : n.toNat ≠ 0xFFFFFFFF := fun e => h (BitVec.eq_of_toNat_eq e)
    simp only [BitVec.toNat_add, BitVec.toNat_ofNat]
    omega

theorem takeByte_rxTotal (b : Byte) (s : State) : (takeByte b s).rxTotal = satSucc s.rxTotal := by
  obtain ⟨_, _, h, _⟩ := takeByte_kept b s
  exact h

/-- Every byte is counted, saturating (R130). -/
theorem takeBytes_rxTotal (bs : List Byte) (s : State) :
    (takeBytes bs s).rxTotal.toNat = min (s.rxTotal.toNat + bs.length) 0xFFFFFFFF := by
  induction bs generalizing s with
  | nil => have := s.rxTotal.isLt; simp only [takeBytes_nil, List.length_nil]; omega
  | cons b bs ih =>
    rw [takeBytes_cons, ih, takeByte_rxTotal, satSucc_toNat, List.length_cons]
    omega

/-- One byte of the search for the preamble (R132). -/
theorem takeByte_sync (b : Byte) (s : State) (hp : s.phase = .sync) :
    takeByte b s = { s with
      sync := delta s.sync b, phase := if delta s.sync b = .matched then .lenH else .sync,
      rxTotal := satSucc s.rxTotal } := by
  simp only [takeByte, applyPhase, hp, onSync]
  split <;> simp_all

/-- Bytes without the preamble pattern move the automaton and nothing else but the count (R122, R132). -/
theorem takeBytes_garbage (g : List Byte) (s : State) (hp : s.phase = .sync) (hs : s.sync = .waitPre)
    (hg : ¬ preamblePattern <:+: g) :
    takeBytes g s = { s with sync := deltaRun .waitPre g, rxTotal := (takeBytes g s).rxTotal } := by
  induction g using List.reverseRecOn with
  | nil => rw [takeBytes_nil, deltaRun, List.foldl_nil, ← hs]
  | append_singleton g b ih =>
    have ih := ih fun h => hg (h.trans (List.prefix_append g [b]).isInfix)
    have hne := deltaRun_ne_matched _ hg
    rw [deltaRun_concat] at hne ⊢
    rw [takeBytes_append, takeBytes_cons, takeBytes_nil, ih, takeByte_sync]
    · simp [hne, hp]
    · exact hp

/-- The preamble, after whatever the automaton has seen, leads to the header (R121, R132). -/
theorem takeBytes_preamble (s : State) (hp : s.phase = .sync) (hs : s.sync ≠ .matched) :
    takeBytes preamblePattern s = { s with
      sync := .matched, phase := .lenH, rxTotal := (takeBytes preamblePattern s).rxTotal } := by
  cases hq : s.sync with
  | waitPre => simp [preamblePattern, takeByte_sync, hp, hq, delta]
  | waitSb1 => simp [preamblePattern, takeByte_sync, hp, hq, delta]
  | waitSb2 => simp [preamblePattern, takeByte_sync, hp, hq, delta]
  | matched => exact absurd hq hs

/-- The header of an ACK: length 0, and a checksum byte that no length 0 has (R133 to R135). -/
theorem takeBytes_ackHeader (s : State) (hp : s.phase = .lenH) :
    takeBytes [0x00#8, 0x00#8, 0xFF#8] s = { s with
      rxLen := 0#16, lcsRx := 0xFF#8, phase := .ackPost,
      rxTotal := (takeBytes [0x00#8, 0x00#8, 0xFF#8] s).rxTotal } := by
  simp [takeByte, applyPhase, hp, onLenH, onLenL, onLcs]

/-- An ACK's postamble completes with OK and IS_ACK (R136). -/
theorem takeByte_ackPost (b : Byte) (s : State) (hp : s.phase = .ackPost) :
    takeByte b s = finish .ok { s with postRx := b, isAck := true, rxTotal := satSucc s.rxTotal } := by
  simp [takeByte, applyPhase, hp, onAckPost]

/-- An ACK frame after garbage, but for its postamble, leads to ACKPOST. -/
theorem takeBytes_untilAckPost (g : List Byte) (s : State) (hp : s.phase = .sync) (hs : s.sync = .waitPre)
    (hg : ¬ preamblePattern <:+: g) :
    takeBytes (g ++ ackFrame.dropLast) s = { s with
      sync := .matched, phase := .ackPost, rxLen := 0#16, lcsRx := 0xFF#8,
      rxTotal := (takeBytes (g ++ ackFrame.dropLast) s).rxTotal } := by
  have hne := deltaRun_ne_matched g hg
  rw [show ackFrame.dropLast = preamblePattern ++ [0x00#8, 0x00#8, 0xFF#8] from rfl, takeBytes_append,
    takeBytes_append, takeBytes_garbage g s hp hs hg, takeBytes_preamble, takeBytes_ackHeader]
  · rfl
  · exact hp
  · exact hne

theorem append_ackFrame (g : List Byte) : g ++ ackFrame = g ++ ackFrame.dropLast ++ [0x00#8] := by
  rw [List.append_assoc]
  rfl

/-- An ACK frame after garbage completes with OK, length 0 and IS_ACK (R142). -/
theorem takeBytes_ackFrame (g : List Byte) (s : State) (hp : s.phase = .sync) (hs : s.sync = .waitPre)
    (hg : ¬ preamblePattern <:+: g) :
    takeBytes (g ++ ackFrame) s = finish .ok { s with
      sync := .matched, phase := .ackPost, rxLen := 0#16, lcsRx := 0xFF#8, postRx := 0x00#8, isAck := true,
      rxTotal := (takeBytes (g ++ ackFrame) s).rxTotal } := by
  rw [append_ackFrame, takeBytes_append, takeBytes_untilAckPost g s hp hs hg, takeBytes_cons, takeBytes_nil,
    takeByte_ackPost _ _ rfl]
  rfl

/-- READ_FRAME as its acceptance leaves it (44_control.md R200, 41_frame_reader.md R126). -/
theorem accept_readFrame (s : State) :
    accept (encode .readFrame) s = acceptReadFrame (latch s (encode .readFrame)) := rfl

/-- A script that presents `bs` from the acceptance on, with fewer ticks than DEADLINE. -/
theorem offered_of_accept (s : State) (ins rest : List Input) (bs : List Byte)
    (hin : (accept (encode .readFrame) s).inputs = ins ++ rest) (hbytes : presents ins bs)
    (htick : tickCount ins < s.deadline.toNat) : Offered (accept (encode .readFrame) s) ins rest bs :=
  ⟨⟨rfl, rfl, rfl⟩, hin, hbytes, by rw [accept_readFrame]; simpa using htick⟩

end Sys2Proof.Machine
end

section
/-! READ_FRAME's reception of an ACK, settled. -/

namespace Sys2Proof.Machine

/-- Settles O58: the run is the fold of `takeByte`, which the garbage and all of the ACK but its last byte lead to
ACKPOST; the last byte completes. -/
theorem readFrameReceivesAnAck : Obligations.ReadFrameReceivesAnAck := by
  rintro s0 s g ins rest rfl hg hin hbytes htick
  have hmid := takeBytes_untilAckPost g (accept (encode .readFrame) s0) rfl rfl hg
  have hend := takeBytes_ackFrame g (accept (encode .readFrame) s0) rfl rfl hg
  have hcount := takeBytes_rxTotal (g ++ ackFrame) (accept (encode .readFrame) s0)
  have hoff := offered_of_accept s0 ins rest _ hin hbytes htick
  rw [append_ackFrame] at hoff
  obtain ⟨t, hrun, hpart⟩ := run_takesBytes _ ins rest _ _ hoff (by rw [hmid]; rfl)
  rw [← append_ackFrame] at hpart
  rw [← rxTotal_of_readerPart hpart] at hcount
  rw [hend] at hpart
  obtain ⟨hbusy, hdone⟩ := completed_of_readerPart hpart rfl
  exact ⟨t, hrun, hbusy, hdone, congrArg State.err hpart, congrArg State.isAck hpart, congrArg State.rxLen hpart,
    congrArg State.rxCnt hpart, hcount.trans (by simp [accept_readFrame, ackFrame])⟩

end Sys2Proof.Machine
end

section
/-! SUPPORT. The two checksum functions as complements modulo 256 (40_checksum.md R100 to R103), and the execution edges of
a command whose static check passed. -/

namespace Sys2Proof.Machine

/-! The checksum functions. -/

/-- The complement that both checksums take of a sum is the one byte that completes it to 0 modulo 256 (R102, R103). -/
theorem add_mod_eq_zero_iff_complement (n : Nat) (b : Byte) :
    (n + b.toNat) % 256 = 0 ↔ b = BitVec.ofNat 8 (0x100 - n % 256) := by
  rw [← BitVec.toNat_inj, BitVec.toNat_ofNat]
  have := b.isLt
  omega

theorem lcs_toNat (len : BitVec 16) :
    (lcs len).toNat = (0x100 - ((len.extractLsb' 8 8).toNat + (len.extractLsb' 0 8).toNat) % 256) % 256 :=
  BitVec.toNat_ofNat _ 8

theorem dcs_toNat (bs : List Byte) : (dcs bs).toNat = (0x100 - (bs.map BitVec.toNat).sum % 256) % 256 :=
  BitVec.toNat_ofNat _ 8

/-- The bytes enter the data checksum through their sum only, so their order does not matter (R103). -/
theorem dcs_perm {p q : List Byte} (h : p.Perm q) : dcs p = dcs q := by
  rw [dcs, dcs, (h.map BitVec.toNat).sum_eq]

theorem dcs_append (p q : List Byte) : dcs (p ++ q) = dcs p + dcs q := by
  apply BitVec.eq_of_toNat_eq
  rw [BitVec.toNat_add, dcs_toNat, dcs_toNat, dcs_toNat, List.map_append, List.sum_append]
  omega

/-! Execution edges. -/

/-- At an execution edge with PEND_ERR = 0 a command does what its own rule says (44_control.md R202). -/
theorem commandEdge_executes (i : Instr) (body : State → State) (s : State) (hb : s.busy = true)
    (hp : s.pendErr = .ok) : commandEdge i body s = body s :=
  (commandEdge_busy i body s hb).trans (unlessPending_ok body s hp)

theorem exec_lcsGen_busy (s : State) (len16 : BitVec 16) (hb : s.busy = true) (hp : s.pendErr = .ok) :
    exec (.lcsGen len16) s = .next (lcsGenBody len16 s) :=
  congrArg _ (commandEdge_executes _ _ s hb hp)

theorem exec_dcsGen_busy (s : State) (sel : Sel) (hb : s.busy = true) (hp : s.pendErr = .ok) :
    exec (.dcsGen sel) s = .next (atLatency (dcsGenBody sel) s) :=
  congrArg _ (commandEdge_executes _ _ s hb hp)

end Sys2Proof.Machine
end

section
/-! The statements about the checksums and the edges of their commands, settled. -/

namespace Sys2Proof.Machine

/-- Settles O10: the formula, and the complement's uniqueness for the header's sum. -/
theorem lcsFormulaAndUniqueness : Obligations.LcsFormulaAndUniqueness :=
  fun len => ⟨lcs_toNat len, add_mod_eq_zero_iff_complement _⟩

/-- Settles O11. -/
theorem dcsFormula : Obligations.DcsFormula := ⟨dcs_nil, dcs_toNat⟩

/-- Settles O12: the complement's uniqueness for the payload's sum, and the sum of a permutation and a concatenation. -/
theorem dcsLaws : Obligations.DcsLaws :=
  ⟨fun _ => add_mod_eq_zero_iff_complement _, fun _ _ => dcs_perm,
    fun p q => by rw [dcs_append, BitVec.toNat_add]⟩

/-- Settles O26. -/
theorem lcsGenCompletes : Obligations.LcsGenCompletes :=
  fun s len16 hb hp => exec_lcsGen_busy s len16 hb hp

/-- Settles O27: the two cases of the latency counter. -/
theorem dcsGenCompletesAtItsEdge : Obligations.DcsGenCompletesAtItsEdge := by
  intro s sel hb hp
  rw [exec_dcsGen_busy s sel hb hp]
  exact ⟨fun hl => by rw [atLatency_last _ s hl.le]; rfl, fun hl => by rw [atLatency_wait _ s hl]⟩

end Sys2Proof.Machine
end

section
/-! SUPPORT. The run of a window command, DCS_GEN or FIND_TAG, from its acceptance to the edge before its completion edge
(44_control.md R200, R202, R207). -/

namespace Sys2Proof.Machine

/-! Acceptance. -/

/-- No acceptance writes the window registers. -/
theorem accept_keeps_window (w : Word) (s : State) :
    (accept w s).winBase = s.winBase ∧ (accept w s).winLen = s.winLen := by
  rcases accept_cases w s with ⟨_, e⟩ | ⟨_, _, e⟩ | ⟨_, _, e⟩ | ⟨_, _, e⟩ | ⟨_, _, _, _, _, e⟩ <;> rw [e] <;>
    exact ⟨rfl, rfl⟩

/-- The window is judged the same before and after an acceptance. -/
theorem accept_windowLegal (w : Word) (s : State) (sel : Sel) : windowLegal (accept w s) sel = windowLegal s sel := by
  obtain ⟨htx, hrx, _⟩ := accept_sameBuffers w s
  obtain ⟨hbase, hlen⟩ := accept_keeps_window w s
  rw [windowLegal, windowLegal, cap_congr s _ htx hrx, hbase, hlen]

/-- A window command that passes its static check draws its latency (R207). -/
theorem accept_window (w : Word) (s : State) (hc : staticCheck s w = .ok)
    (ho : opcodeOf w = 0x02#8 ∨ opcodeOf w = 0x07#8) : accept w s = drawLatency (latch s w) := by
  rw [accept, if_pos hc, acceptanceWrites_window _ w ho]

theorem staticCheck_dcsGen (s : State) (sel : Sel) (h : windowLegal s sel = true) :
    staticCheck s (encode (.dcsGen sel)) = .ok := by
  rw [staticCheck_encode, rangeCheck, if_pos h]

/-- The command that executes after the acceptance of a command's word is that command (30_encoding.md R86). -/
theorem executing_accept_encode (s : State) (i : Instr) (hi : i ≠ .abort) :
    executing (accept (encode i) s) = some i := by
  have ha := accept_accepted (encode i) s
  refine executing_of_decode _ i ?_ hi
  rw [latchedWord_of_fields _ (encode i) ha.op ha.arg, decode_encode]

/-- A window command that passed its static check is executing. -/
def windowExecuting (s : State) : Prop := s.busy = true ∧ s.pendErr = .ok ∧ (s.op = 0x02#8 ∨ s.op = 0x07#8)

theorem windowExecuting_accept (w : Word) (s : State) (hc : staticCheck s w = .ok)
    (ho : opcodeOf w = 0x02#8 ∨ opcodeOf w = 0x07#8) : windowExecuting (accept w s) := by
  rw [accept_window w s hc ho]
  exact ⟨rfl, hc, ho⟩

/-! The edges before the completion edge. -/

/-- `t` is `s` after `n` edges at which a window command only waited: the latency counter went down, the script moved on to
`rest`, and the host wrote what it may write while BUSY = 1. -/
def WaitedTo (n : Nat) (rest : List Input) (s t : State) : Prop :=
  ∃ ie done bwe reads, t = { s with
    latLeft := s.latLeft - n, ie := ie, done := done, bwe := bwe, inputs := rest, hostReads := reads }

theorem WaitedTo.windowExecuting {n : Nat} {rest : List Input} {s t : State} (h : WaitedTo n rest s t)
    (hs : windowExecuting s) : windowExecuting t := by
  obtain ⟨_, _, _, _, rfl⟩ := h
  exact hs

theorem WaitedTo.trans {m n : Nat} {l rest : List Input} {s t u : State} (h : WaitedTo m l s t)
    (h' : WaitedTo n rest t u) : WaitedTo (m + n) rest s u := by
  obtain ⟨_, _, _, _, rfl⟩ := h
  obtain ⟨ie, done, bwe, reads, rfl⟩ := h'
  exact ⟨ie, done, bwe, reads, by rw [Nat.sub_sub]⟩

theorem WaitedTo.bufBytes {n : Nat} {rest : List Input} {s t : State} (h : WaitedTo n rest s t) (sel : Sel)
    (base len : Nat) : bufBytes t sel base len = bufBytes s sel base len := by
  obtain ⟨_, _, _, _, rfl⟩ := h
  exact bufBytes_congr _ _ _ _ _ fun k _ => SameBuffers.bufRead ⟨rfl, rfl, rfl, rfl⟩ sel (base + k)

theorem engineStep_waits (s : State) (h : windowExecuting s) (hl : 1 < s.latLeft) :
    engineStep s = { s with latLeft := s.latLeft - 1 } := by
  obtain ⟨_, hp, hop⟩ := h
  rcases executing_window s hop with he | ⟨tag, he⟩ <;>
    simp only [engineStep, he, unlessPending_ok _ s hp, atLatency_wait _ s hl]

theorem step_waits (s : State) (h : windowExecuting s) (hl : 1 < s.latLeft) (hu : s.input.undisturbing) :
    ∃ t, step s = .next t ∧ WaitedTo 1 s.inputs.tail s t := by
  obtain ⟨ie, done, bwe, reads, hs, _⟩ := step_undisturbed s h.1 hu
  rw [engineStep_waits s h hl] at hs
  exact ⟨_, hs, ie, done, bwe, reads, rfl⟩

/-- Over an undisturbed script shorter than what is left of its latency, a window command only waits. -/
theorem run_waits (s : State) (ins rest : List Input) (h : windowExecuting s) (hin : s.inputs = ins ++ rest)
    (hlen : ins.length < s.latLeft) (hu : ∀ i ∈ ins, i.undisturbing) :
    ∃ t, runsTo ins.length s t ∧ WaitedTo ins.length rest s t := by
  induction ins generalizing s with
  | nil =>
    obtain rfl : s.inputs = rest := hin
    exact ⟨s, (runsTo_zero s s).mpr rfl, s.ie, s.done, s.bwe, s.hostReads, rfl⟩
  | cons i ins ih =>
    rw [List.length_cons] at hlen
    obtain ⟨hi, hrest⟩ := List.forall_mem_cons.mp hu
    have hinput : s.input = i := input_cons s i _ hin
    obtain ⟨u, hs, hw⟩ := step_waits s h (by omega) (hinput ▸ hi)
    have hscript : u.inputs = ins ++ rest := by
      obtain ⟨_, _, _, _, rfl⟩ := hw
      simp [hin]
    have hleft : ins.length < u.latLeft := by
      obtain ⟨_, _, _, _, rfl⟩ := hw
      exact Nat.lt_sub_of_add_lt hlen
    obtain ⟨t, hrun, hw'⟩ := ih u (hw.windowExecuting h) hscript hleft hrest
    refine ⟨t, (runsTo_succ _ s u t hs).mpr hrun, ?_⟩
    rw [List.length_cons, Nat.add_comm]
    exact hw.trans hw'

/-- The same over the first `k` edges of a script that lasts as long as the latency. -/
theorem run_waits_take (s : State) (ins rest : List Input) (h : windowExecuting s) (hin : s.inputs = ins ++ rest)
    (hlen : ins.length = s.latLeft) (hu : ∀ i ∈ ins, i.undisturbing) (k : Nat) (hk : k < ins.length) :
    ∃ t, runsTo k s t ∧ WaitedTo k (ins.drop k ++ rest) s t := by
  have hk' : (ins.take k).length = k := List.length_take_of_le hk.le
  obtain ⟨t, ht⟩ := run_waits s (ins.take k) (ins.drop k ++ rest) h
    (by rw [← List.append_assoc, List.take_append_drop, hin]) (by omega) fun i hi => hu i (List.mem_of_mem_take hi)
  rw [hk'] at ht
  exact ⟨t, ht⟩

/-- Over a script as long as its latency a window command waits up to the last edge, which comes undisturbed with one edge
left to go (44_control.md R207). -/
theorem run_to_last_edge (s : State) (ins rest : List Input) (h : windowExecuting s) (hin : s.inputs = ins ++ rest)
    (hlen : ins.length = s.latLeft) (hpos : 1 ≤ s.latLeft) (hu : ∀ i ∈ ins, i.undisturbing) :
    ∃ n l t, ins.length = n + 1 ∧ runsTo n s t ∧ WaitedTo n l s t ∧ t.latLeft = 1 ∧ t.input.undisturbing := by
  obtain ⟨n, hn⟩ : ∃ n, ins.length = n + 1 := ⟨ins.length - 1, by omega⟩
  have hlt : n < ins.length := by omega
  obtain ⟨t, hrun, hw⟩ := run_waits_take s ins rest h hin hlen hu n hlt
  refine ⟨n, _, t, hn, hrun, hw, ?_, ?_⟩ <;> obtain ⟨_, _, _, _, rfl⟩ := hw
  · show s.latLeft - n = 1
    omega
  · rw [input_cons _ ins[n] (ins.drop (n + 1) ++ rest) (by rw [List.drop_eq_getElem_cons hlt, List.cons_append])]
    exact hu _ (List.getElem_mem hlt)

/-! DCS_GEN's completion edge (40_checksum.md R105). -/

/-- RES of a DCS_GEN that completes in this state. -/
def windowDcs (s : State) (sel : Sel) : Byte := dcs (bufBytes s sel s.winBase.toNat s.winLen.toNat)

theorem windowDcs_accept (w : Word) (s : State) (sel : Sel) : windowDcs (accept w s) sel = windowDcs s sel := by
  obtain ⟨hbase, hlen⟩ := accept_keeps_window w s
  rw [windowDcs, windowDcs, hbase, hlen,
    bufBytes_congr s _ sel _ _ fun k _ => (accept_sameBuffers w s).bufRead sel _]

theorem WaitedTo.windowDcs {n : Nat} {rest : List Input} {s t : State} (h : WaitedTo n rest s t) (sel : Sel) :
    windowDcs t sel = windowDcs s sel := by
  have hb := h.bufBytes sel
  obtain ⟨_, _, _, _, rfl⟩ := h
  exact congrArg dcs (hb _ _)

theorem engineStep_dcsGen_last (s : State) (sel : Sel) (he : executing s = some (.dcsGen sel)) (hp : s.pendErr = .ok)
    (hl : s.latLeft ≤ 1) : engineStep s = dcsGenBody sel s := by
  simp only [engineStep, he, unlessPending_ok _ s hp, atLatency_last _ s hl]

theorem step_dcsGen_last (s : State) (sel : Sel) (hb : s.busy = true) (he : executing s = some (.dcsGen sel))
    (hp : s.pendErr = .ok) (hl : s.latLeft ≤ 1) (hu : s.input.undisturbing) :
    ∃ t, step s = .next t ∧ t.busy = false ∧ t.done = true ∧ t.err = .ok ∧ t.res = windowDcs s sel := by
  obtain ⟨_, _, _, _, hs, hdone⟩ := step_undisturbed s hb hu
  rw [engineStep_dcsGen_last s sel he hp hl] at hs hdone
  exact ⟨_, hs, rfl, hdone rfl, rfl, rfl⟩

end Sys2Proof.Machine
end

section
/-! DCS_GEN's run from acceptance to completion, settled. -/

namespace Sys2Proof.Machine

/-- Settles O55: DCS_GEN waits up to the last edge of its latency, keeping RES and the window, and completes there. -/
theorem dcsGenRunsForItsLatency : Obligations.DcsGenRunsForItsLatency := by
  rintro s0 s sel ins rest hs hwin hin hlen hu
  have hlegal : windowLegal s0 sel = true := by
    rw [← accept_windowLegal (encode (.dcsGen sel)), ← hs]
    exact decide_eq_true hwin
  have hop : opcodeOf (encode (.dcsGen sel)) = 0x02#8 ∨ opcodeOf (encode (.dcsGen sel)) = 0x07#8 :=
    .inl (opcodeOf_encode_dcsGen sel)
  have hcheck := staticCheck_dcsGen s0 sel hlegal
  have hacc : s = drawLatency (latch s0 (encode (.dcsGen sel))) := hs.trans (accept_window _ s0 hcheck hop)
  have hres : s.res = s0.res := by rw [hacc]; rfl
  have hpos : 1 ≤ s.latLeft := by rw [hacc]; exact (latency_range _ _).1
  have hexec : windowExecuting s := hs ▸ windowExecuting_accept _ s0 hcheck hop
  have hcmd : executing s = some (.dcsGen sel) := hs ▸ executing_accept_encode s0 (.dcsGen sel) nofun
  have hdcs : windowDcs s sel = windowDcs s0 sel := hs ▸ windowDcs_accept _ s0 sel
  constructor
  · intro k hk
    obtain ⟨_, hrun, _, _, _, _, rfl⟩ := run_waits_take s ins rest hexec hin hlen hu k hk
    exact ⟨_, hrun, hexec.1, hres⟩
  · obtain ⟨n, l, t, hn, hrun, hw, hleft, hlast⟩ := run_to_last_edge s ins rest hexec hin hlen hpos hu
    obtain ⟨hb, hp, _⟩ := hw.windowExecuting hexec
    have hcmd' : executing t = some (.dcsGen sel) := by
      obtain ⟨_, _, _, _, rfl⟩ := hw
      exact hcmd
    obtain ⟨u, hstep, hbusy, hdone, herr, hdcs'⟩ := step_dcsGen_last t sel hb hcmd' hp hleft.le hlast
    have hend : runsTo 1 t u := (runsTo_succ 0 t u u hstep).mpr ((runsTo_zero u u).mpr rfl)
    exact ⟨u, hn ▸ runsTo_add n 1 s t u hrun hend, hbusy, hdone, herr,
      hdcs'.trans ((hw.windowDcs sel).trans hdcs)⟩

end Sys2Proof.Machine
end

section
/-! SUPPORT. The preamble automaton read off the end of the bytes (41_frame_reader.md R121, R122), and the execution edges
of the commands of the frame reader: one equation per phase for the byte that READ_FRAME takes (R132 to R139), and the
edges with a byte, without one, and past the deadline (R127 to R131). -/

namespace Sys2Proof.Machine

/-! The automaton (R121, R122). -/

theorem deltaRun_append (q : Sync) (bs cs : List Byte) : deltaRun q (bs ++ cs) = deltaRun (deltaRun q bs) cs :=
  List.foldl_append

/-- Two bytes 0x00 lead to WAIT_SB2 from every state. -/
theorem deltaRun_twoZeros (q : Sync) : deltaRun q [0x00#8, 0x00#8] = .waitSb2 := by cases q <;> rfl

/-- The pattern leads to MATCHED from every state, so the automaton misses no occurrence. -/
theorem deltaRun_preamble (q : Sync) : deltaRun q preamblePattern = .matched := by cases q <;> rfl

/-- A byte 0x00 leads to WAIT_SB1 or WAIT_SB2 from every state. -/
theorem delta_zero (q : Sync) : delta q 0x00#8 = .waitSb1 ∨ delta q 0x00#8 = .waitSb2 := by cases q <;> decide

/-- What the automaton's state stands for ends the bytes that led to it. -/
theorem suffix_of_deltaRun {bs : List Byte} {q : Sync} (h : deltaRun .waitPre bs = q) : seenPattern q <:+ bs :=
  h ▸ seenPattern_deltaRun bs

theorem deltaRun_eq_matched_iff (bs : List Byte) : deltaRun .waitPre bs = .matched ↔ preamblePattern <:+ bs := by
  refine ⟨suffix_of_deltaRun, ?_⟩
  rintro ⟨cs, rfl⟩
  rw [deltaRun_append, deltaRun_preamble]

theorem deltaRun_eq_waitSb2_iff (bs : List Byte) : deltaRun .waitPre bs = .waitSb2 ↔ [0x00#8, 0x00#8] <:+ bs := by
  refine ⟨suffix_of_deltaRun, ?_⟩
  rintro ⟨cs, rfl⟩
  rw [deltaRun_append, deltaRun_twoZeros]

theorem deltaRun_eq_waitSb1_iff (bs : List Byte) :
    deltaRun .waitPre bs = .waitSb1 ↔ [0x00#8] <:+ bs ∧ deltaRun .waitPre bs ≠ .waitSb2 := by
  refine ⟨fun h => ⟨suffix_of_deltaRun h, by rw [h]; nofun⟩, ?_⟩
  rintro ⟨⟨cs, rfl⟩, hne⟩
  rw [deltaRun_concat] at hne ⊢
  exact (delta_zero _).resolve_right hne

/-- The pattern occurs where some first bytes end with it, and those are the first bytes that lead to MATCHED. -/
theorem exists_matched_iff (bs : List Byte) :
    (∃ k, k ≤ bs.length ∧ deltaRun .waitPre (bs.take k) = .matched) ↔ preamblePattern <:+: bs := by
  simp only [deltaRun_eq_matched_iff, List.infix_iff_suffix_prefix]
  constructor
  · rintro ⟨k, _, h⟩
    exact ⟨bs.take k, h, List.take_prefix k bs⟩
  · rintro ⟨cs, h, hc⟩
    exact ⟨cs.length, hc.length_le, (List.prefix_iff_eq_take.mp hc) ▸ h⟩

/-! The commands of the frame reader at an execution edge with PEND_ERR = 0. -/

theorem exec_preStep_busy (s : State) (byte : Byte) (hb : s.busy = true) (hp : s.pendErr = .ok) :
    exec (.preStep byte) s = .next (preStepBody byte s) :=
  congrArg _ (commandEdge_executes _ _ s hb hp)

theorem exec_preClr_busy (s : State) (hb : s.busy = true) (hp : s.pendErr = .ok) :
    exec .preClr s = .next (preClrBody s) :=
  congrArg _ (commandEdge_executes _ _ s hb hp)

theorem exec_readFrame_busy (s : State) (h : readingFrame s) : exec .readFrame s = .next (readFrameBody s) :=
  congrArg _ (commandEdge_executes _ _ s h.1 h.2.2)

/-! READ_FRAME's edge (R127 to R131). -/

theorem elapsed_ult_deadline (s : State) (h : s.elapsed.toNat < s.deadline.toNat) :
    s.elapsed.ult s.deadline = true := BitVec.ult_iff_toNat_lt.mpr h

theorem not_elapsed_ult_deadline (s : State) (h : s.deadline.toNat ≤ s.elapsed.toNat) :
    s.elapsed.ult s.deadline = false := by
  rw [Bool.eq_false_iff, Ne, BitVec.ult_iff_toNat_lt]
  exact Nat.not_lt.mpr h

/-- The tick of an edge that does not complete the command is counted (R131). -/
theorem countTick_goesOn (s t : State) (hb : t.busy = true) (he : t.elapsed = s.elapsed) :
    countTick s.input.tick t = { t with elapsed := tickedElapsed s } := by
  rcases countTick_cases s.input.tick t with ⟨ht, _, e⟩ | ⟨hn, e⟩
  · rw [e, tickedElapsed, if_pos ht, he]
  · have ht : s.input.tick = false := hn.resolve_right (by simp [hb])
    rw [e, tickedElapsed, ht, ← he]
    rfl

/-- The tick of a completion edge is not (R131). -/
theorem countTick_completed (tick : Bool) (s : State) (hb : s.busy = false) : countTick tick s = s := by
  rw [countTick, hb, Bool.and_false]
  rfl

/-- An edge before the deadline without a byte counts its tick and changes nothing else (R127, R131). -/
theorem readFrameBody_waits (s : State) (hb : s.busy = true) (ht : s.elapsed.toNat < s.deadline.toNat)
    (hv : s.input.rxValid = false) : readFrameBody s = { s with elapsed := tickedElapsed s } := by
  rw [readFrameBody_stall s (elapsed_ult_deadline s ht) hv, countTick_goesOn s s hb rfl]

theorem exec_readFrame_byte (s : State) (b : Byte) (h : byteArrives s b) :
    exec .readFrame s = .next (countTick s.input.tick (takeByte b s)) := by
  obtain ⟨hr, ht, hv, rfl⟩ := h
  rw [exec_readFrame_busy s hr, readFrameBody_byte s (elapsed_ult_deadline s ht) hv]

/-- An edge that takes a byte after which READ_FRAME goes on: the tick is counted. -/
theorem exec_readFrame_goesOn (s t : State) (b : Byte) (h : byteArrives s b) (ht : takeByte b s = t)
    (hb : t.busy = true) : exec .readFrame s = .next { t with elapsed := tickedElapsed s } := by
  subst ht
  obtain ⟨_, he, _⟩ := takeByte_kept b s
  rw [exec_readFrame_byte s b h, countTick_goesOn s _ hb he]

/-- An edge that takes a byte with which READ_FRAME completes: the tick is ignored. -/
theorem exec_readFrame_completes (s t : State) (b : Byte) (h : byteArrives s b) (ht : takeByte b s = t)
    (hb : t.busy = false) : exec .readFrame s = .next t := by
  subst ht
  rw [exec_readFrame_byte s b h, countTick_completed _ _ hb]

/-! One byte taken in each phase (R133 to R139); SYNC and ACKPOST stand above. -/

theorem takeByte_lenH (b : Byte) (s : State) (hp : s.phase = .lenH) :
    takeByte b s = { s with rxLen := b ++ 0x00#8, phase := .lenL, rxTotal := satSucc s.rxTotal } := by
  simp [takeByte, applyPhase, hp, onLenH]

theorem takeByte_lenL (b : Byte) (s : State) (hp : s.phase = .lenL) :
    takeByte b s = { s with
      rxLen := s.rxLen.extractLsb' 8 8 ++ b, phase := .lcs, rxTotal := satSucc s.rxTotal } := by
  simp [takeByte, applyPhase, hp, onLenL]

/-- The three tests of the LCS byte, in their order (R135). -/
theorem takeByte_lcs (b : Byte) (s : State) (hp : s.phase = .lcs) :
    takeByte b s =
      if s.rxLen = 0#16 ∧ b = 0xFF#8 then { s with lcsRx := b, phase := .ackPost, rxTotal := satSucc s.rxTotal }
      else if b ≠ lcs s.rxLen then finish .lcsErr { s with lcsRx := b, rxTotal := satSucc s.rxTotal }
      else if s.rxbufCap.toNat < s.rxLen.toNat then
        finish .overflow { s with lcsRx := b, rxTotal := satSucc s.rxTotal }
      else { s with
        lcsRx := b, phase := if s.rxLen = 0#16 then .dcs else .pay, rxTotal := satSucc s.rxTotal } := by
  simp only [takeByte, applyPhase, hp, onLcs]
  split_ifs <;> rfl

theorem takeByte_pay (b : Byte) (s : State) (hp : s.phase = .pay) :
    takeByte b s = { s with
      mem := (bufWrite s .rx s.rxCnt.toNat b).mem, dcsCalc := s.dcsCalc - b, rxCnt := s.rxCnt + 1#16,
      phase := if s.rxCnt.toNat + 1 = s.rxLen.toNat then .dcs else .pay, rxTotal := satSucc s.rxTotal } := by
  simp only [takeByte, applyPhase, hp, onPay]
  rw [bufWrite_eq, bufWrite_mem, bufWrite_mem]
  rfl

/-- Every buffer byte after a payload byte is taken, with or without the edge's tick. -/
theorem bufRead_takeByte_pay (b : Byte) (s : State) (hp : s.phase = .pay) (e : BitVec 32) (sel : Sel) (k : Nat) :
    bufRead { takeByte b s with elapsed := e } sel k = bufRead (bufWrite s .rx s.rxCnt.toNat b) sel k := by
  rw [takeByte_pay b s hp]
  exact SameBuffers.bufRead (by constructor <;> simp) sel k

theorem takeByte_dcs (b : Byte) (s : State) (hp : s.phase = .dcs) :
    takeByte b s = { s with dcsRx := b, phase := .post, rxTotal := satSucc s.rxTotal } := by
  simp [takeByte, applyPhase, hp, onDcs]

/-- The postamble completes, and the DCS test decides the code (R139). -/
theorem takeByte_post (b : Byte) (s : State) (hp : s.phase = .post) :
    takeByte b s =
      finish (if s.dcsRx = s.dcsCalc then .ok else .dcsErr) { s with postRx := b, rxTotal := satSucc s.rxTotal } := by
  simp only [takeByte, applyPhase, hp, onPost]
  split <;> rfl

/-! The edge's RX handshake (20_memory.md R66) and its count (R130). -/

theorem rxReady_iff (s : State) : rxReady s = true ↔ readingFrame s ∧ s.elapsed.ult s.deadline = true := by
  simp [rxReady, readingFrame, and_assoc]

/-- A READ_FRAME that passed its static check is what OP and PEND_ERR name. -/
theorem readingFrame_of_executing (s : State) (hb : s.busy = true) (hp : s.pendErr = .ok)
    (he : executing s = some .readFrame) : readingFrame s :=
  ⟨hb, op_of_executing s .readFrame he, hp⟩

/-- The executing command's step counts a byte exactly at an RX handshake. -/
theorem engineStep_rxTotal (s : State) (hb : s.busy = true) :
    (engineStep s).rxTotal =
      if rxReady s = true ∧ s.input.rxValid = true then satSucc s.rxTotal else s.rxTotal := by
  by_cases hr : readingFrame s
  · obtain ⟨_, htotal, _⟩ := readFrameBody_kept s
    simp only [engineStep_of_readingFrame s hr, htotal, rxReady_iff, hr, true_and]
  · rw [if_neg fun h => hr ((rxReady_iff s).mp h.1).1]
    have hc := engineStep_cases s
    generalize engineStep s = t at hc
    cases hc with
    | readFrame p e => exact absurd (readingFrame_of_executing s hb p e) hr
    | writeFrame => unfold writeFrameBody; split_ifs <;> rfl
    | findTag => unfold findTagBody; split <;> rfl
    | _ => rfl

/-- The same of the whole edge, abort edges included (44_control.md R205). -/
theorem step_rxTotal (s t : State) (hb : s.busy = true) (hr : s.input.rst = false) (h : step s = .next t) :
    t.rxTotal = if rxReady s = true ∧ s.input.rxValid = true then satSucc s.rxTotal else s.rxTotal := by
  rw [← engineStep_rxTotal s hb]
  obtain ⟨u, hu, hres⟩ := step_edge s hr
  obtain rfl : endEdge s u = t := by rw [hu] at h; injection h
  obtain ⟨_, _, _, _, he, _⟩ := endEdge_busy s u hb
  rw [he]
  cases hres with
  | aborted => obtain ⟨_, _, _, _, htotal⟩ := abortEdge_kept s; exact htotal
  | executed => rfl
  | noCommand idle => simp [hb] at idle
  | idleAbort idle => simp [hb] at idle
  | accepted idle => simp [hb] at idle
  | acceptedIllegal idle => simp [hb] at idle

/-! The abort edge (44_control.md R205). -/

theorem exec_abort_busy (s : State) (hb : s.busy = true) : exec .abort s = .next (abortEdge s) := by
  simp [exec, execAbort, hb]

theorem exec_abort_idle (s : State) (hb : s.busy = false) : exec .abort s = .next s := by
  simp [exec, execAbort, hb]

/-- A command that completes at the abort edge completes as it would without the ABORT. -/
theorem abortEdge_of_completed (s : State) (h : (engineStep s).busy = false) : abortEdge s = engineStep s := by
  simp [abortEdge, h]

end Sys2Proof.Machine
end

section
/-! The statements about the frame reader's commands, edge by edge, settled: the automaton, READ_FRAME's acceptance and its
phases, the count of the bytes, and ABORT. -/

namespace Sys2Proof.Machine

/-- Settles O14: a suffix `00 00`, or the pattern itself, leads every state to its own, and what a state stands for ends
the bytes. -/
theorem automatonFindsThePattern : Obligations.AutomatonFindsThePattern :=
  fun bs => ⟨fun _ => ⟨deltaRun_eq_matched_iff bs, deltaRun_eq_waitSb2_iff bs, deltaRun_eq_waitSb1_iff bs⟩,
    exists_matched_iff bs⟩

/-- Settles O40: the latched command's own step is the engine's, and an undefined word's is `finish(ILLEGAL)`. -/
theorem abortEndsTheExecutingCommand : Obligations.AbortEndsTheExecutingCommand := by
  refine fun s => ⟨exec_abort_idle s, fun i hb hd hi => ?_, fun hb hp _ => ?_⟩
  · refine ⟨engineStep s, exec_eq_engineStep s i hb (executing_of_decode s i hd hi) hi, ?_⟩
    rw [exec_abort_busy s hb]
    rfl
  · have he := engineStep_of_illegal s hp
    rw [exec_abort_busy s hb, abortEdge_of_completed s (by rw [he]; rfl), he]
    rfl

/-- Settles O53. -/
theorem rxTotalCountsHandshakes : Obligations.RxTotalCountsHandshakes := by
  intro s t hb hr h
  rw [step_rxTotal s t hb hr h]
  split
  · exact satSucc_toNat _
  · rfl

/-- Settles O13: the table's entries, and every byte that is neither 0x00 nor 0xFF. -/
theorem automatonTable : Obligations.AutomatonTable := by
  refine ⟨by decide, by decide, fun q b h0 hf => ?_⟩
  cases q <;> simp [delta, h0, hf]

/-- Settles O20. -/
theorem readFrameIsAccepted : Obligations.ReadFrameIsAccepted :=
  fun s hb => exec_idle_passed s .readFrame hb nofun rfl

/-- Settles O28. -/
theorem preStepCompletes : Obligations.PreStepCompletes := fun s byte hb hp => exec_preStep_busy s byte hb hp

/-- Settles O29. -/
theorem preClrCompletes : Obligations.PreClrCompletes := fun s hb hp => exec_preClr_busy s hb hp

/-- Settles O32. -/
theorem readFrameSyncPhase : Obligations.ReadFrameSyncPhase :=
  fun s b h hp => exec_readFrame_goesOn s _ b h (takeByte_sync b s hp) h.1.1

/-- Settles O33. -/
theorem readFrameLengthPhases : Obligations.ReadFrameLengthPhases :=
  fun s b h => ⟨fun hp => exec_readFrame_goesOn s _ b h (takeByte_lenH b s hp) h.1.1,
    fun hp => exec_readFrame_goesOn s _ b h (takeByte_lenL b s hp) h.1.1⟩

/-- Settles O34: the two errors complete, and the tick counts in the two cases that go on. -/
theorem readFrameLcsPhase : Obligations.ReadFrameLcsPhase := by
  intro s b h hp
  have ht := takeByte_lcs b s hp
  split_ifs at ht ⊢
  · exact exec_readFrame_goesOn s _ b h ht h.1.1
  · exact exec_readFrame_completes s _ b h ht rfl
  · exact exec_readFrame_completes s _ b h ht rfl
  · exact exec_readFrame_goesOn s _ b h ht h.1.1
  · exact exec_readFrame_goesOn s _ b h ht h.1.1

/-- Settles O35. -/
theorem readFrameAckPostPhase : Obligations.ReadFrameAckPostPhase :=
  fun s b h hp => exec_readFrame_completes s _ b h (takeByte_ackPost b s hp) rfl

/-- Settles O36: the invariant puts RX_CNT below the capacity, so the byte written exists. -/
theorem readFramePayPhase : Obligations.ReadFramePayPhase := by
  intro s b hinv h hp
  have hreader := hinv.reader h.1
  simp only [readerInv, hp] at hreader
  obtain ⟨_, hlt, hfit, _⟩ := hreader
  have hpay := takeByte_pay b s hp
  refine ⟨_, exec_readFrame_goesOn s _ b h rfl (by rw [hpay]; exact h.1.1), by rw [hpay], ?_, fun sel k hne => ?_⟩
  · exact (bufRead_takeByte_pay b s hp _ .rx _).trans (bufRead_bufWrite_same s .rx _ b (lt_of_lt_of_le hlt hfit))
  · exact (bufRead_takeByte_pay b s hp _ sel k).trans (bufRead_bufWrite_ne s .rx sel _ k b hne)

/-- Settles O37. -/
theorem readFrameChecksumPhases : Obligations.ReadFrameChecksumPhases :=
  fun s b h => ⟨fun hp => exec_readFrame_goesOn s _ b h (takeByte_dcs b s hp) h.1.1,
    fun hp => exec_readFrame_completes s _ b h (takeByte_post b s hp) rfl⟩

/-- Settles O38: the code per phase. -/
theorem readFrameDeadline : Obligations.ReadFrameDeadline := by
  intro s h _ ht
  have hcode : timeoutCode s.phase =
      if s.phase = .lenH ∨ s.phase = .lenL ∨ s.phase = .lcs then .shortRead else .timeout := by
    cases s.phase <;> rfl
  rw [exec_readFrame_busy s h, readFrameBody_timeout s (not_elapsed_ult_deadline s ht), hcode]
  rfl

/-- Settles O39. -/
theorem readFrameWaits : Obligations.ReadFrameWaits :=
  fun s h ht hv => by rw [exec_readFrame_busy s h, readFrameBody_waits s h.1 ht hv]

end Sys2Proof.Machine
end

section
/-! SUPPORT. READ_FRAME over the parts of a data frame: the header, the payload byte by byte into RXBUF, the checksum and
the postamble (41_frame_reader.md R133 to R139, R142). -/

namespace Sys2Proof.Machine

/-! The parts of a data frame (30_encoding.md R93). -/

/-- The three bytes between a data frame's preamble and its payload. -/
def dataHeader (len : BitVec 16) : List Byte := [len.extractLsb' 8 8, len.extractLsb' 0 8, lcs len]

/-- What stands before a data frame's payload. -/
def untilPayload (g : List Byte) (len : BitVec 16) : List Byte := g ++ (preamblePattern ++ dataHeader len)

theorem length_dataFrame (p : List Byte) : (dataFrame p).length = p.length + 8 := by
  simp only [dataFrame, List.length_append, List.length_cons, List.length_nil]
  omega

/-- A data frame after garbage, cut before the payload, the checksum and the postamble. -/
theorem append_dataFrame (g p : List Byte) :
    g ++ dataFrame p = untilPayload g (BitVec.ofNat 16 p.length) ++ p ++ [dcs p] ++ [0x00#8] := by
  simp [dataFrame, untilPayload, dataHeader, preamblePattern]

/-- A length put together from its two bytes (R133, R134). -/
theorem length_of_bytes (len : BitVec 16) :
    (len.extractLsb' 8 8 ++ 0x00#8).extractLsb' 8 8 ++ len.extractLsb' 0 8 = len := by
  apply BitVec.eq_of_getLsbD_eq
  intro k hk
  simp only [BitVec.getLsbD_append, BitVec.getLsbD_extractLsb']
  interval_cases k <;> simp

/-! The header (R133 to R135). -/

/-- The header of a payload that fits leads to the payload, or past an empty one. -/
theorem takeBytes_dataHeader (len : BitVec 16) (s : State) (hp : s.phase = .lenH) (hfit : len.toNat ≤ s.rxbufCap.toNat) :
    takeBytes (dataHeader len) s = { s with
      rxLen := len, lcsRx := lcs len, phase := if len = 0#16 then .dcs else .pay,
      rxTotal := (takeBytes (dataHeader len) s).rxTotal } := by
  have hack : ¬ (len = 0#16 ∧ lcs len = 0xFF#8) := by
    rintro ⟨rfl, h⟩
    exact absurd h (by decide)
  rw [dataHeader, takeBytes_cons, takeBytes_cons, takeBytes_cons, takeBytes_nil, takeByte_lenH _ s hp,
    takeByte_lenL (len.extractLsb' 0 8) _ rfl, takeByte_lcs _ _ rfl]
  simp only [length_of_bytes]
  rw [if_neg hack, if_neg (not_not.mpr rfl), if_neg (Nat.not_lt.mpr hfit)]

/-- Garbage, the preamble and the header. -/
theorem takeBytes_untilPayload (g : List Byte) (len : BitVec 16) (s : State) (hp : s.phase = .sync)
    (hs : s.sync = .waitPre) (hg : ¬ preamblePattern <:+: g) (hfit : len.toNat ≤ s.rxbufCap.toNat) :
    takeBytes (untilPayload g len) s = { s with
      sync := .matched, rxLen := len, lcsRx := lcs len, phase := if len = 0#16 then .dcs else .pay,
      rxTotal := (takeBytes (untilPayload g len) s).rxTotal } := by
  rw [untilPayload, takeBytes_append, takeBytes_append, takeBytes_garbage g s hp hs hg, takeBytes_preamble,
    takeBytes_dataHeader]
  · rfl
  · exact hfit
  · exact hp
  · exact deltaRun_ne_matched g hg

/-! The payload (R137). -/

/-- READ_FRAME before the first payload byte, or past an empty payload. -/
structure AtPayload (s : State) : Prop where
  phase : s.phase = if s.rxLen = 0#16 then .dcs else .pay
  rxCnt : s.rxCnt = 0#16
  dcsCalc : s.dcsCalc = 0#8

theorem toNat_ofNat_length (p : List Byte) (n : Nat) (h : p.length ≤ n) (hn : n < 65536) :
    (BitVec.ofNat 16 p.length).toNat = p.length := by
  rw [BitVec.toNat_ofNat, Nat.mod_eq_of_lt (lt_of_le_of_lt h hn)]

/-- Payload bytes, up to RX_LEN of them, are counted and enter DCS_CALC; the last leads to DCS. -/
theorem takeBytes_payload (q : List Byte) (s : State) (h : AtPayload s) (hq : q.length ≤ s.rxLen.toNat) :
    takeBytes q s = { s with
      mem := (takeBytes q s).mem, dcsCalc := dcs q, rxCnt := BitVec.ofNat 16 q.length,
      phase := if q.length = s.rxLen.toNat then .dcs else .pay, rxTotal := (takeBytes q s).rxTotal } := by
  induction q using List.reverseRecOn with
  | nil =>
    have hzero : s.rxLen = 0#16 ↔ 0 = s.rxLen.toNat := by
      rw [← BitVec.toNat_inj, eq_comm]
      rfl
    have hphase := h.phase
    simp only [hzero] at hphase
    rw [takeBytes_nil, dcs_nil, List.length_nil, ← hphase, ← h.dcsCalc, ← h.rxCnt]
  | append_singleton q b ih =>
    rw [List.length_append, List.length_singleton] at hq ⊢
    have ih := ih (by omega)
    have hlen := toNat_ofNat_length q s.rxLen.toNat (by omega) s.rxLen.isLt
    rw [if_neg (by omega)] at ih
    rw [takeBytes_append, takeBytes_cons, takeBytes_nil, ih, takeByte_pay _ _ rfl, dcs_concat]
    simp only [hlen, BitVec.ofNat_add]

/-- One more payload byte in RXBUF. -/
theorem bufBytes_takeByte_pay (b : Byte) (s : State) (hp : s.phase = .pay) (hfit : s.rxCnt.toNat < s.rxbufCap.toNat) :
    bufBytes (takeByte b s) .rx 0 (s.rxCnt.toNat + 1) = bufBytes s .rx 0 s.rxCnt.toNat ++ [b] := by
  have hstored := bufRead_takeByte_pay b s hp (takeByte b s).elapsed .rx
  rw [bufBytes_congr _ _ _ _ _ fun k _ => hstored (0 + k), bufBytes_succ,
    bufBytes_bufWrite_past _ _ _ _ _ _ (Nat.zero_add _).le, Nat.zero_add, bufRead_bufWrite_same s .rx _ b hfit]

/-- The payload stands in RXBUF from byte 0 on. -/
theorem bufBytes_takeBytes_payload (q : List Byte) (s : State) (h : AtPayload s) (hq : q.length ≤ s.rxLen.toNat)
    (hfit : q.length ≤ s.rxbufCap.toNat) : bufBytes (takeBytes q s) .rx 0 q.length = q := by
  induction q using List.reverseRecOn with
  | nil => rfl
  | append_singleton q b ih =>
    rw [List.length_append, List.length_singleton] at hq hfit ⊢
    have hmid := takeBytes_payload q s h (by omega)
    have hphase : (takeBytes q s).phase = .pay := (congrArg State.phase hmid).trans (if_neg (by omega))
    have hcap : (takeBytes q s).rxbufCap = s.rxbufCap := by rw [hmid]
    have hcnt : (takeBytes q s).rxCnt.toNat = q.length :=
      (congrArg (fun t => t.rxCnt.toNat) hmid).trans (toNat_ofNat_length q _ (by omega) s.rxLen.isLt)
    have hone := bufBytes_takeByte_pay b (takeBytes q s) hphase (by rw [hcap]; omega)
    rw [hcnt, ih (by omega) (by omega)] at hone
    rw [takeBytes_append]
    exact hone

/-! The whole frame (R138, R139, R142). -/

/-- A data frame whose payload fits, after garbage and but for its postamble, leads to POST with the two checksums
equal. -/
theorem takeBytes_untilPost (g p : List Byte) (s : State) (hp : s.phase = .sync) (hs : s.sync = .waitPre)
    (hcnt : s.rxCnt = 0#16) (hcalc : s.dcsCalc = 0#8) (hg : ¬ preamblePattern <:+: g)
    (hfit : p.length ≤ s.rxbufCap.toNat) :
    ∃ mem total, takeBytes (untilPayload g (BitVec.ofNat 16 p.length) ++ p ++ [dcs p]) s = { s with
        sync := .matched, phase := .post, rxLen := BitVec.ofNat 16 p.length, rxCnt := BitVec.ofNat 16 p.length,
        lcsRx := lcs (BitVec.ofNat 16 p.length), dcsRx := dcs p, dcsCalc := dcs p, mem := mem, rxTotal := total } ∧
      bufBytes { s with mem := mem } .rx 0 p.length = p := by
  have hlen := toNat_ofNat_length p s.rxbufCap.toNat hfit s.rxbufCap.isLt
  have hhead := takeBytes_untilPayload g (BitVec.ofNat 16 p.length) s hp hs hg (by rwa [hlen])
  generalize hmid : takeBytes (untilPayload g (BitVec.ofNat 16 p.length)) s = t at hhead
  have hat : AtPayload t := by rw [hhead]; exact ⟨rfl, hcnt, hcalc⟩
  have hrx : t.rxLen.toNat = p.length := by rw [hhead]; exact hlen
  have hpay := takeBytes_payload p t hat hrx.ge
  have hbytes := bufBytes_takeBytes_payload p t hat hrx.ge (by rw [hhead]; exact hfit)
  rw [if_pos hrx.symm] at hpay
  rw [takeBytes_append, takeBytes_append, hmid, takeBytes_cons, takeBytes_nil]
  generalize takeBytes p t = u at hpay hbytes
  refine ⟨u.mem, satSucc u.rxTotal, ?_, Eq.trans ?_ hbytes⟩
  · rw [takeByte_dcs _ _ (congrArg State.phase hpay), hpay, hhead]
  · rw [hpay, hhead]
    rfl

/-- A data frame whose payload fits, after garbage, completes with OK (R142). -/
theorem takeBytes_dataFrame (g p : List Byte) (s : State) (hp : s.phase = .sync) (hs : s.sync = .waitPre)
    (hcnt : s.rxCnt = 0#16) (hcalc : s.dcsCalc = 0#8) (hg : ¬ preamblePattern <:+: g)
    (hfit : p.length ≤ s.rxbufCap.toNat) :
    ∃ mem total, takeBytes (g ++ dataFrame p) s = finish .ok { s with
        sync := .matched, phase := .post, rxLen := BitVec.ofNat 16 p.length, rxCnt := BitVec.ofNat 16 p.length,
        lcsRx := lcs (BitVec.ofNat 16 p.length), dcsRx := dcs p, dcsCalc := dcs p, postRx := 0x00#8, mem := mem,
        rxTotal := total } ∧
      bufBytes { s with mem := mem } .rx 0 p.length = p := by
  obtain ⟨mem, total, hmid, hbytes⟩ := takeBytes_untilPost g p s hp hs hcnt hcalc hg hfit
  refine ⟨mem, satSucc total, ?_, hbytes⟩
  rw [append_dataFrame, takeBytes_append, hmid, takeBytes_cons, takeBytes_nil, takeByte_post _ _ rfl, if_pos rfl]

/-- Two states with the same reader's part hold the same bytes in both buffers. -/
theorem bufBytes_of_readerPart {s t : State} (h : readerPart t = readerPart s) (sel : Sel) (base n : Nat) :
    bufBytes t sel base n = bufBytes s sel base n := by
  have part (u : State) : bufBytes (readerPart u) sel base n = bufBytes u sel base n :=
    bufBytes_congr _ _ _ _ _ fun k _ => SameBuffers.bufRead ⟨rfl, rfl, rfl, rfl⟩ sel _
  rw [← part t, h, part s]

end Sys2Proof.Machine
end

section
/-! READ_FRAME's reception of a data frame, settled. -/

namespace Sys2Proof.Machine

/-- Settles O57: the run is the fold of `takeByte`, which the garbage and all of the frame but its postamble lead to POST
with the payload in RXBUF; the postamble completes. -/
theorem readFrameReceivesADataFrame : Obligations.ReadFrameReceivesADataFrame := by
  rintro s0 s g p ins rest rfl hfit hg hin hbytes htick
  have hlen := toNat_ofNat_length p s0.rxbufCap.toNat hfit s0.rxbufCap.isLt
  obtain ⟨_, _, hmid, _⟩ := takeBytes_untilPost g p (accept (encode .readFrame) s0) rfl rfl rfl rfl hg hfit
  obtain ⟨_, _, hend, hstored⟩ := takeBytes_dataFrame g p (accept (encode .readFrame) s0) rfl rfl rfl rfl hg hfit
  have hcount := takeBytes_rxTotal (g ++ dataFrame p) (accept (encode .readFrame) s0)
  have hoff := offered_of_accept s0 ins rest _ hin hbytes htick
  rw [append_dataFrame] at hoff
  obtain ⟨t, hrun, hpart⟩ := run_takesBytes _ ins rest _ _ hoff (by rw [hmid]; rfl)
  rw [← append_dataFrame] at hpart
  rw [← rxTotal_of_readerPart hpart] at hcount
  rw [hend] at hpart
  obtain ⟨hbusy, hdone⟩ := completed_of_readerPart hpart rfl
  have hrxLen : t.rxLen = BitVec.ofNat 16 p.length := congrArg State.rxLen hpart
  have hrxCnt : t.rxCnt = BitVec.ofNat 16 p.length := congrArg State.rxCnt hpart
  refine ⟨t, hrun, hbusy, hdone, congrArg State.err hpart, congrArg State.isAck hpart, by rw [hrxLen, hlen],
    by rw [hrxCnt, hlen], (bufBytes_of_readerPart hpart .rx 0 _).trans hstored, hcount.trans ?_⟩
  have hzero : (accept (encode .readFrame) s0).rxTotal.toNat = 0 := rfl
  rw [hzero, List.length_append, length_dataFrame, Nat.zero_add, ← Nat.add_assoc]

end Sys2Proof.Machine
end

section
/-! SUPPORT. Runs of an executing command whose state after each edge is known, up to what the host and the environment
write (44_control.md R208, 20_memory.md R77): READ_FRAME waiting for its deadline (41_frame_reader.md R144) and
WRITE_FRAME with `tx_ready` in every cycle (42_frame_writer.md R161, R163). -/

namespace Sys2Proof.Machine

/-! Runs up to the host. -/

/-- `t` is `s` but for what the host and the environment write while a command executes. -/
def HostChanged (s t : State) : Prop :=
  ∃ ie done bwe l reads, t = { s with ie := ie, done := done, bwe := bwe, inputs := l, hostReads := reads }

theorem HostChanged.refl (s : State) : HostChanged s s := ⟨s.ie, s.done, s.bwe, s.inputs, s.hostReads, rfl⟩

theorem HostChanged.trans {s t u : State} (h : HostChanged s t) (h' : HostChanged t u) : HostChanged s u := by
  obtain ⟨_, _, _, _, _, rfl⟩ := h
  obtain ⟨ie, done, bwe, l, reads, rfl⟩ := h'
  exact ⟨ie, done, bwe, l, reads, rfl⟩

theorem HostChanged.finish {s t : State} (h : HostChanged s t) (e : Code) : HostChanged (finish e s) (finish e t) := by
  obtain ⟨ie, _, bwe, l, reads, rfl⟩ := h
  exact ⟨ie, true, bwe, l, reads, rfl⟩

theorem HostChanged.busy {s t : State} (h : HostChanged s t) : t.busy = s.busy := by
  obtain ⟨_, _, _, _, _, rfl⟩ := h
  rfl

/-- An undisturbed edge is the executing command's step, and it keeps the DONE of a completion. -/
theorem step_hostChanged (s : State) (hb : s.busy = true) (hu : s.input.undisturbing) :
    ∃ t, step s = .next t ∧ HostChanged (engineStep s) t ∧ t.inputs = s.inputs.tail ∧
      ((engineStep s).busy = false → t.done = (engineStep s).done) := by
  obtain ⟨ie, done, bwe, reads, hs, hdone⟩ := step_undisturbed s hb hu
  exact ⟨_, hs, ⟨ie, done, bwe, _, reads, rfl⟩, rfl, hdone⟩

/-- Over edges whose inputs meet `Q`, the executing command goes through the states `f 0, …, f n`. -/
structure GoesThrough (Q : Input → Prop) (f : Nat → State) (n : Nat) : Prop where
  busy : ∀ k, k ≤ n → (f k).busy = true
  edge : ∀ k t, k < n → HostChanged (f k) t → Q t.input → HostChanged (f (k + 1)) (engineStep t)

/-- The input of the edge after the first `k` of a script. -/
theorem input_mem_of_drop (s : State) (ins rest : List Input) (k : Nat) (hk : k < ins.length)
    (h : s.inputs = ins.drop k ++ rest) : s.input ∈ ins := by
  rw [List.drop_eq_getElem_cons hk, List.cons_append] at h
  rw [input_cons s _ _ h]
  exact List.getElem_mem hk

/-- The state after `k` edges of a script. -/
theorem GoesThrough.run {Q : Input → Prop} {f : Nat → State} {n : Nat} (h : GoesThrough Q f n) (s : State)
    (ins rest : List Input) (hs : HostChanged (f 0) s) (hin : s.inputs = ins ++ rest) (hn : n < ins.length)
    (hQ : ∀ i ∈ ins, i.undisturbing ∧ Q i) (k : Nat) (hk : k ≤ n) :
    ∃ t, runsTo k s t ∧ HostChanged (f k) t ∧ t.inputs = ins.drop k ++ rest := by
  induction k with
  | zero => exact ⟨s, (runsTo_zero s s).mpr rfl, hs, hin⟩
  | succ k ih =>
    obtain ⟨t, hrun, hf, hrest⟩ := ih (by omega)
    obtain ⟨hu, hq⟩ := hQ _ (input_mem_of_drop t ins rest k (by omega) hrest)
    obtain ⟨u, hstep, hchg, hinu, _⟩ := step_hostChanged t (hf.busy.trans (h.busy k (by omega))) hu
    have hone : runsTo 1 t u := (runsTo_succ 0 t u u hstep).mpr ((runsTo_zero u u).mpr rfl)
    refine ⟨u, runsTo_add k 1 s t u hrun hone, (h.edge k t (by omega) hf hq).trans hchg, ?_⟩
    rw [hinu, hrest, List.drop_eq_getElem_cons (by omega : k < ins.length)]
    rfl

/-- A script of one edge more, at which the command completes as `finish e v`. -/
theorem GoesThrough.completes {Q : Input → Prop} {f : Nat → State} {n : Nat} (h : GoesThrough Q f n) (s v : State)
    (e : Code) (ins rest : List Input) (hs : HostChanged (f 0) s) (hin : s.inputs = ins ++ rest)
    (hn : ins.length = n + 1) (hQ : ∀ i ∈ ins, i.undisturbing ∧ Q i)
    (hlast : ∀ t, HostChanged (f n) t → Q t.input → ∃ u, engineStep t = finish e u ∧ HostChanged v u) :
    ∃ t, runsTo ins.length s t ∧ HostChanged (finish e v) t ∧ t.done = true := by
  obtain ⟨t, hrun, hf, hrest⟩ := h.run s ins rest hs hin (by omega) hQ n le_rfl
  obtain ⟨hu, hq⟩ := hQ _ (input_mem_of_drop t ins rest n (by omega) hrest)
  obtain ⟨w, hstep, hchg, _, hdone⟩ := step_hostChanged t (hf.busy.trans (h.busy n le_rfl)) hu
  obtain ⟨u, hfin, hv⟩ := hlast t hf hq
  rw [hfin] at hchg hdone
  have hone : runsTo 1 t w := (runsTo_succ 0 t w w hstep).mpr ((runsTo_zero w w).mpr rfl)
  exact ⟨w, hn ▸ runsTo_add n 1 s t w hrun hone, (hv.finish e).trans hchg, hdone rfl⟩

/-! READ_FRAME without a byte and with a tick at every edge (41_frame_reader.md R131, R144). -/

/-- READ_FRAME after `k` ticks. -/
def ticked (s : State) (k : Nat) : State := { s with elapsed := BitVec.ofNat 32 k }

/-- No byte, and a tick. -/
def Input.onlyTick (i : Input) : Prop := i.rxValid = false ∧ i.tick = true

theorem readingFrame_of_hostChanged {s t : State} (h : HostChanged s t) (hs : readingFrame s) : readingFrame t := by
  obtain ⟨_, _, _, _, _, rfl⟩ := h
  exact hs

/-- ELAPSED counts the edges up to DEADLINE. -/
theorem goesThrough_ticked (s : State) (hr : readingFrame s) :
    GoesThrough Input.onlyTick (ticked s) s.deadline.toNat where
  busy := fun _ _ => hr.1
  edge := by
    intro k t hk ht hq
    obtain ⟨hv, htick⟩ := hq
    have hrt : readingFrame t := readingFrame_of_hostChanged ht hr
    have hk' : (BitVec.ofNat 32 k).toNat = k := by
      rw [BitVec.toNat_ofNat]
      exact Nat.mod_eq_of_lt (by omega)
    have hbefore : t.elapsed.toNat < t.deadline.toNat := by
      obtain ⟨_, _, _, _, _, rfl⟩ := ht
      rw [ticked, hk']
      exact hk
    rw [engineStep_of_readingFrame t hrt, readFrameBody_waits t hrt.1 hbefore hv, tickedElapsed, if_pos htick]
    obtain ⟨ie, done, bwe, l, reads, rfl⟩ := ht
    exact ⟨ie, done, bwe, l, reads, by simp only [ticked, BitVec.ofNat_add]⟩

/-- At DEADLINE READ_FRAME completes with the phase's code (R129). -/
theorem engineStep_deadline (s t : State) (hr : readingFrame s) (ht : HostChanged (ticked s s.deadline.toNat) t) :
    engineStep t = finish (timeoutCode s.phase) t := by
  have hrt : readingFrame t := readingFrame_of_hostChanged ht hr
  obtain ⟨_, _, _, _, _, rfl⟩ := ht
  rw [engineStep_of_readingFrame _ hrt, readFrameBody_timeout _ (not_elapsed_ult_deadline _ (by simp [ticked]))]
  rfl

end Sys2Proof.Machine
end

section
/-! READ_FRAME's timeout, settled. -/

namespace Sys2Proof.Machine

/-- Settles O59: ELAPSED counts the edges, and the edge that finds it at DEADLINE completes. -/
theorem readFrameTimesOut : Obligations.ReadFrameTimesOut := by
  rintro s0 s ins rest rfl hin hlen hall
  have hread : readingFrame (accept (encode .readFrame) s0) := ⟨rfl, rfl, rfl⟩
  have hgo := goesThrough_ticked _ hread
  have hQ (i : Input) (hi : i ∈ ins) : i.undisturbing ∧ i.onlyTick := hall i hi
  have hdl : ins.length = (accept (encode .readFrame) s0).deadline.toNat + 1 := hlen
  constructor
  · intro k hk
    obtain ⟨t, hrun, ht, _⟩ := hgo.run _ ins rest (.refl _) hin (by omega) hQ k (by omega)
    exact ⟨t, hrun, ht.busy.trans (hgo.busy k (by omega))⟩
  · obtain ⟨t, hrun, ht, hdone⟩ := hgo.completes _ _ .timeout ins rest (.refl _) hin hdl hQ
      fun u hu _ => ⟨u, engineStep_deadline _ u hread hu, hu⟩
    obtain ⟨_, _, _, _, _, rfl⟩ := ht
    exact ⟨_, hrun, rfl, hdone, rfl, rfl, BitVec.ofNat_toNat ..⟩

end Sys2Proof.Machine
end

section
/-! SUPPORT. WRITE_FRAME with `tx_ready` in every cycle hands over the data frame of its payload, byte by byte
(42_frame_writer.md R160, R161, R163; 30_encoding.md R93). -/

namespace Sys2Proof.Machine

/-! The frame (R161). -/

/-- FrameByte past the header: the payload, its checksum, the postamble. -/
theorem frameByte_pastHeader (s : State) (k : Nat) :
    frameByte s (6 + k) =
      if k < s.txLen.toNat then bufRead s .tx k
      else if k = s.txLen.toNat then dcs (bufBytes s .tx 0 s.txLen.toNat) else 0x00#8 := by
  have hpay : k < s.txLen.toNat ↔ 6 + k ≤ 5 + s.txLen.toNat := by omega
  have hdcs : k = s.txLen.toNat ↔ 6 + k = 6 + s.txLen.toNat := by omega
  rw [frameByte, if_neg (by omega), if_neg (by omega), if_neg (by omega), if_neg (by omega), if_neg (by omega),
    if_neg (by omega), Nat.add_sub_cancel_left]
  simp only [hpay, hdcs]

/-- The bytes that FrameByte gives, in order, are the data frame of the payload. -/
theorem frameBytes_eq_dataFrame (s : State) :
    (List.range (s.txLen.toNat + 8)).map (frameByte s) = dataFrame (bufBytes s .tx 0 s.txLen.toNat) := by
  have hlen : BitVec.ofNat 16 (bufBytes s .tx 0 s.txLen.toNat).length = s.txLen := by
    rw [bufBytes_length, BitVec.ofNat_toNat, BitVec.setWidth_eq]
  have hheader : (List.range 6).map (frameByte s) =
      [0x00#8, 0x00#8, 0xFF#8, s.txLen.extractLsb' 8 8, s.txLen.extractLsb' 0 8, lcs s.txLen] := rfl
  have hpayload : (List.range s.txLen.toNat).map (fun k => frameByte s (6 + k)) = bufBytes s .tx 0 s.txLen.toNat := by
    refine List.map_congr_left fun k hk => ?_
    rw [frameByte_pastHeader, if_pos (List.mem_range.mp hk), Nat.zero_add]
  have hcheck : frameByte s (6 + s.txLen.toNat) = dcs (bufBytes s .tx 0 s.txLen.toNat) := by
    rw [frameByte_pastHeader, if_neg (lt_irrefl _), if_pos rfl]
  have hpost : frameByte s (6 + (s.txLen.toNat + 1)) = 0x00#8 := by
    rw [frameByte_pastHeader, if_neg (by omega), if_neg (by omega)]
  rw [show s.txLen.toNat + 8 = 6 + (s.txLen.toNat + 1 + 1) by omega, List.range_add, List.map_append, List.map_map,
    hheader, List.range_succ, List.range_succ, dataFrame, hlen]
  simp [Function.comp_def, hpayload, hcheck, hpost]

/-! The run (R160, R163). -/

/-- WRITE_FRAME, its payload fitting, as its acceptance leaves it (44_control.md R200). -/
theorem accept_writeFrame (s : State) (h : s.txLen.toNat ≤ s.txbufCap.toNat) :
    accept (encode .writeFrame) s = { latch s (encode .writeFrame) with txCnt := 0#17 } ∧
    writingFrame (accept (encode .writeFrame) s) := by
  have hc : staticCheck s (encode .writeFrame) = .ok := by rw [staticCheck_encode, rangeCheck, if_pos h]
  have he : accept (encode .writeFrame) s = { latch s (encode .writeFrame) with txCnt := 0#17 } := by
    rw [accept, if_pos hc]
    rfl
  exact ⟨he, by rw [he]; exact ⟨rfl, rfl, hc⟩⟩

theorem engineStep_of_writingFrame (s : State) (h : writingFrame s) : engineStep s = writeFrameBody s := by
  obtain ⟨_, hop, hp⟩ := h
  simp [engineStep, executing_writeFrame s hop, unlessPending_ok _ s hp]

theorem writingFrame_of_hostChanged {s t : State} (h : HostChanged s t) (hs : writingFrame s) : writingFrame t := by
  obtain ⟨_, _, _, _, _, rfl⟩ := h
  exact hs

/-- A handover reads nothing that the host changes while the command executes. -/
theorem HostChanged.handOver {s t : State} (h : HostChanged s t) : HostChanged (handOver s) (handOver t) := by
  obtain ⟨ie, done, bwe, l, reads, rfl⟩ := h
  exact ⟨ie, done, bwe, l, reads, rfl⟩

/-- WRITE_FRAME after `k` handovers. -/
def handedOver (s : State) (k : Nat) : State :=
  { s with txCnt := BitVec.ofNat 17 k, txSent := s.txSent ++ (List.range k).map (frameByte s) }

theorem handedOver_txCnt (s : State) (k : Nat) (h : k ≤ s.txLen.toNat + 8) : (handedOver s k).txCnt.toNat = k := by
  rw [handedOver, BitVec.toNat_ofNat]
  exact Nat.mod_eq_of_lt (by omega)

/-- One handover more. -/
theorem handOver_handedOver (s : State) (k : Nat) (h : k ≤ s.txLen.toNat + 8) :
    handOver (handedOver s k) = handedOver s (k + 1) := by
  rw [handOver, handedOver_txCnt s k h]
  simp only [handedOver, List.range_succ, List.map_append, List.append_assoc, BitVec.ofNat_add]
  rfl

/-- An edge with `tx_ready` hands a byte over, and completes with the last byte of the frame (R160). -/
theorem engineStep_handedOver (s t : State) (k : Nat) (hw : writingFrame s) (hk : k ≤ s.txLen.toNat + 7)
    (ht : HostChanged (handedOver s k) t) (hready : t.input.txReady = true) :
    engineStep t = if k = s.txLen.toNat + 7 then finish .ok (handOver t) else handOver t := by
  have hwt : writingFrame t := writingFrame_of_hostChanged ht hw
  obtain ⟨hcnt, hlen⟩ : t.txCnt.toNat = k ∧ t.txLen = s.txLen := by
    obtain ⟨_, _, _, _, _, rfl⟩ := ht
    exact ⟨handedOver_txCnt s k (by omega), rfl⟩
  rw [engineStep_of_writingFrame t hwt, writeFrameBody, if_pos hready, hcnt, hlen]

/-- All bytes of the frame but the last are handed over, one at an edge. -/
theorem goesThrough_handedOver (s : State) (hw : writingFrame s) :
    GoesThrough (fun i => i.txReady = true) (handedOver s) (s.txLen.toNat + 7) where
  busy := fun _ _ => hw.1
  edge := by
    intro k t hk ht hready
    rw [engineStep_handedOver s t k hw hk.le ht hready, if_neg hk.ne, ← handOver_handedOver s k (by omega)]
    exact ht.handOver

/-- WRITE_FRAME from its acceptance to its completion, with `tx_ready` in every cycle (R164). -/
theorem run_writeFrame (s : State) (hfit : s.txLen.toNat ≤ s.txbufCap.toNat) (ins rest : List Input)
    (hin : (accept (encode .writeFrame) s).inputs = ins ++ rest) (hlen : ins.length = s.txLen.toNat + 8)
    (hQ : ∀ i ∈ ins, i.undisturbing ∧ i.txReady = true) :
    ∃ t, runsTo ins.length (accept (encode .writeFrame) s) t ∧
      HostChanged (finish .ok (handedOver (accept (encode .writeFrame) s) (s.txLen.toNat + 8))) t ∧ t.done = true := by
  obtain ⟨he, hw⟩ := accept_writeFrame s hfit
  have hlenEq : (accept (encode .writeFrame) s).txLen = s.txLen := by rw [he]; rfl
  have hstart : handedOver (accept (encode .writeFrame) s) 0 = accept (encode .writeFrame) s := by
    rw [he]
    simp [handedOver]
  generalize accept (encode .writeFrame) s = w at *
  rw [← hlenEq] at hlen ⊢
  refine (goesThrough_handedOver w hw).completes w _ .ok ins rest (by rw [hstart]; exact .refl w) hin hlen hQ
    fun t ht hready => ?_
  refine ⟨handOver t, by rw [engineStep_handedOver w t _ hw le_rfl ht hready, if_pos rfl], ?_⟩
  rw [← handOver_handedOver w _ (by omega)]
  exact ht.handOver

/-- The bytes it has sent are the data frame of its payload (R161). -/
theorem sent_of_run_writeFrame (s t : State)
    (ht : HostChanged (finish .ok (handedOver s (s.txLen.toNat + 8))) t) :
    t.txSent = s.txSent ++ dataFrame (bufBytes s .tx 0 s.txLen.toNat) := by
  obtain ⟨_, _, _, _, _, rfl⟩ := ht
  rw [← frameBytes_eq_dataFrame]
  rfl

end Sys2Proof.Machine
end

section
/-! The round trip of a frame, settled. -/

namespace Sys2Proof.Machine

/-- Settles O60: the writer's run, which is the only one, sends the data frame of its payload, and the reader receives
that. -/
theorem frameRoundTrip : Obligations.FrameRoundTrip := by
  rintro w0 w w' r0 r g p insW restW insR restR rfl hfitW rfl hinW hlenW hQ hrunW rfl hfitR hinR hg hbytes htick
  rw [bufBytes_length] at hlenW
  obtain ⟨t, hrun, ht, _⟩ := run_writeFrame w0 hfitW insW restW hinW hlenW hQ
  obtain rfl := runsTo_unique _ _ _ _ hrun hrunW
  obtain ⟨he, _⟩ := accept_writeFrame w0 hfitW
  have hlen : (accept (encode .writeFrame) w0).txLen = w0.txLen := by rw [he]; rfl
  have hpayload : bufBytes (accept (encode .writeFrame) w0) .tx 0 w0.txLen.toNat = bufBytes w0 .tx 0 w0.txLen.toNat :=
    bufBytes_congr _ _ _ _ _ fun _ _ => (accept_sameBuffers _ w0).bufRead .tx _
  rw [← hlen] at ht
  rw [sent_of_run_writeFrame _ t ht, List.drop_left, hlen, hpayload] at hbytes
  obtain ⟨u, hrunR, _, hdone, herr, hack, hrxLen, hrxCnt, hstored, _⟩ :=
    readFrameReceivesADataFrame r0 _ g _ insR restR rfl hfitR hg hinR hbytes htick
  exact ⟨u, hrunR, hdone, herr, hack, hrxLen, hrxCnt, hstored⟩

end Sys2Proof.Machine
end

section
/-! SUPPORT. WRITE_FRAME's own rule, case by case (42_frame_writer.md R160), and what its acceptance keeps of the frame it
is to send. -/

namespace Sys2Proof.Machine

/-! The execution edge (R160, R161, R163). -/

theorem exec_writeFrame_busy (s : State) (h : writingFrame s) : exec .writeFrame s = .next (writeFrameBody s) :=
  congrArg _ (commandEdge_executes _ _ s h.1 h.2.2)

theorem writeFrameBody_handsOver (s : State) (hready : s.input.txReady = true)
    (hk : s.txCnt.toNat ≠ s.txLen.toNat + 7) : writeFrameBody s = handOver s := by
  rw [writeFrameBody, if_pos hready, if_neg hk]

theorem writeFrameBody_completes (s : State) (hready : s.input.txReady = true)
    (hk : s.txCnt.toNat = s.txLen.toNat + 7) : writeFrameBody s = finish .ok (handOver s) := by
  rw [writeFrameBody, if_pos hready, if_pos hk]

theorem writeFrameBody_stalls (s : State) (hready : s.input.txReady = false) : writeFrameBody s = s := by
  rw [writeFrameBody, if_neg (by simp [hready])]

/-- The last byte of a frame is the postamble. -/
theorem frameByte_postamble (s : State) : frameByte s (s.txLen.toNat + 7) = 0x00#8 := by
  rw [show s.txLen.toNat + 7 = 6 + (s.txLen.toNat + 1) by omega, frameByte_pastHeader, if_neg (by omega),
    if_neg (by omega)]

/-! The acceptance edge (44_control.md R200). -/

theorem rangeCheck_writeFrame (s : State) (h : s.txLen.toNat ≤ s.txbufCap.toNat) : rangeCheck s .writeFrame = .ok := by
  rw [rangeCheck, if_pos h]

/-- Acceptance changes neither the length and the bytes of the payload nor the bytes sent. -/
theorem accept_writeFrame_keeps (s : State) (h : s.txLen.toNat ≤ s.txbufCap.toNat) :
    (accept (encode .writeFrame) s).txLen = s.txLen ∧ (accept (encode .writeFrame) s).txSent = s.txSent ∧
    ∀ n, bufBytes (accept (encode .writeFrame) s) .tx 0 n = bufBytes s .tx 0 n := by
  obtain ⟨he, _⟩ := accept_writeFrame s h
  exact ⟨by rw [he]; rfl, by rw [he]; rfl,
    fun _ => bufBytes_congr _ _ _ _ _ fun _ _ => (accept_sameBuffers _ s).bufRead .tx _⟩

end Sys2Proof.Machine
end

section
/-! The statements about the frame writer, settled: its frame, its acceptance, its edges, and its run. -/

namespace Sys2Proof.Machine

/-- Settles O56: the run hands over the bytes of the frame one by one, and the acceptance before it keeps the payload. -/
theorem writeFrameSendsTheDataFrame : Obligations.WriteFrameSendsTheDataFrame := by
  rintro s0 s ins rest rfl hfit hin hlen hQ
  obtain ⟨t, hrun, ht, hdone⟩ := run_writeFrame s0 hfit ins rest hin hlen hQ
  obtain ⟨htxLen, htxSent, hpayload⟩ := accept_writeFrame_keeps s0 hfit
  rw [← htxLen] at ht
  have hsent := sent_of_run_writeFrame _ t ht
  rw [htxSent, hpayload, htxLen] at hsent
  obtain ⟨_, _, _, _, _, rfl⟩ := ht
  exact ⟨_, hrun, rfl, hdone, rfl, (handedOver_txCnt _ _ le_rfl).trans (by rw [htxLen]), hsent⟩

/-- Settles O15: the frame's byte `k` is the `k`-th of the bytes that FrameByte gives in order. -/
theorem frameByteIsTheDataFrame : Obligations.FrameByteIsTheDataFrame := by
  intro s k hk
  rw [← frameBytes_eq_dataFrame, List.getElem?_map, List.getElem?_range (by omega), Option.map_some]

/-- Settles O21. -/
theorem writeFrameIsAccepted : Obligations.WriteFrameIsAccepted :=
  fun s hb hfit => exec_idle_passed s .writeFrame hb nofun (rangeCheck_writeFrame s hfit)

/-- Settles O31: the three cases of the handover, the last of which hands over the postamble. -/
theorem writeFrameHandsOverOneByte : Obligations.WriteFrameHandsOverOneByte := by
  intro s hw
  rw [exec_writeFrame_busy s hw]
  refine ⟨fun hready hk => ?_, fun hready hk => ?_, fun hready => ?_⟩
  · rw [writeFrameBody_handsOver s hready hk]
    rfl
  · rw [writeFrameBody_completes s hready hk, handOver, hk, frameByte_postamble]
    rfl
  · rw [writeFrameBody_stalls s hready]

end Sys2Proof.Machine
end

section
/-! SUPPORT. The scan of a TLV window (43_tlv.md R181): the entries it walks through, as one relation from an entry to
the next, the answer as the match it stops at, and FIND_TAG's edges. -/

namespace Sys2Proof.Machine

section Scan

variable {rd rd' : Nat → Byte} {stop i j k fuel off : Nat} {target marker len : Byte}

/-- The scan skips the entry at the first position and looks at the second one next (R181). -/
inductive NextEntry (rd : Nat → Byte) (stop : Nat) (target marker : Byte) (i : Nat) : Nat → Prop
  | twoByteTag (tag : rd i = marker) (hdr : i + 2 < stop) :
      NextEntry rd stop target marker i (i + 3 + (rd (i + 2)).toNat)
  | oneByteTag (tag : rd i ≠ marker) (other : rd i ≠ target) (hdr : i + 1 < stop) :
      NextEntry rd stop target marker i (i + 2 + (rd (i + 1)).toNat)

/-- The entry at `i` is the one the scan answers: its one-byte tag is the target, and its header and its value lie in
the window (R181, R182). -/
def MatchAt (rd : Nat → Byte) (stop : Nat) (target marker : Byte) (off : Nat) (len : Byte) (i : Nat) : Prop :=
  i + 1 < stop ∧ rd i ≠ marker ∧ rd i = target ∧ len = rd (i + 1) ∧ off = i + 2 ∧ off + len.toNat ≤ stop

/-! The entries. -/

theorem NextEntry.add_two_le (h : NextEntry rd stop target marker i j) : i + 2 ≤ j := by
  cases h <;> omega

/-- An entry has at most one next entry. -/
theorem NextEntry.unique (hj : NextEntry rd stop target marker i j)
    (hk : NextEntry rd stop target marker i k) : j = k := by
  cases hj with
  | twoByteTag tag _ =>
    cases hk with
    | twoByteTag => rfl
    | oneByteTag tag' => exact absurd tag tag'
  | oneByteTag tag _ _ =>
    cases hk with
    | twoByteTag tag' => exact absurd tag' tag
    | oneByteTag => rfl

/-- An entry that is skipped is no match. -/
theorem NextEntry.not_matchAt (h : NextEntry rd stop target marker i j) :
    ¬ MatchAt rd stop target marker off len i := by
  rintro ⟨_, hmarker, htarget, _⟩
  cases h with
  | twoByteTag tag _ => exact hmarker tag
  | oneByteTag _ other _ => exact other htarget

/-- The entries reached are those that steps to the next entry lead to. -/
theorem entryReached_iff_reflTransGen :
    EntryReached rd stop target marker i j ↔ Relation.ReflTransGen (NextEntry rd stop target marker) i j := by
  constructor
  · intro h
    induction h with
    | first => exact .refl
    | afterTwoByteTag _ _ tag hdr ih => exact ih.tail (.twoByteTag tag hdr)
    | afterOneByteTag _ _ tag other hdr ih => exact ih.tail (.oneByteTag tag other hdr)
  · intro h
    induction h with
    | refl => exact .first
    | tail _ hnext ih =>
      cases hnext with
      | twoByteTag tag hdr => exact .afterTwoByteTag _ ih tag hdr
      | oneByteTag tag other hdr => exact .afterOneByteTag _ ih tag other hdr

theorem EntryReached.le (h : EntryReached rd stop target marker i j) : i ≤ j := by
  induction h with
  | first => exact le_rfl
  | afterTwoByteTag | afterOneByteTag => omega

/-- A skipped entry gives way to its next one as the first entry. -/
theorem NextEntry.entryReached_iff (h : NextEntry rd stop target marker i k) :
    EntryReached rd stop target marker i j ↔ j = i ∨ EntryReached rd stop target marker k j := by
  simp only [entryReached_iff_reflTransGen]
  rw [Relation.ReflTransGen.cases_head_iff]
  constructor
  · rintro (rfl | ⟨k', hk', hj⟩)
    · exact .inl rfl
    · exact .inr (h.unique hk' ▸ hj)
  · rintro (rfl | hj)
    · exact .inl rfl
    · exact .inr ⟨k, h, hj⟩

/-- The scan reaches no entry after one that it does not skip. -/
theorem entryReached_iff_of_last (hlast : ∀ k, ¬ NextEntry rd stop target marker i k) :
    EntryReached rd stop target marker i j ↔ j = i := by
  rw [entryReached_iff_reflTransGen, Relation.ReflTransGen.cases_head_iff]
  exact ⟨fun h => h.elim Eq.symm fun ⟨k, hk, _⟩ => absurd hk (hlast k), fun h => .inl h.symm⟩

/-! The loop. -/

theorem scanFrom_of_next (h : NextEntry rd stop target marker i k) :
    scanFrom rd stop target marker (fuel + 1) i = scanFrom rd stop target marker fuel k := by
  cases h with
  | twoByteTag tag hdr => rw [scanFrom, if_pos (by omega), if_pos tag, if_pos hdr]
  | oneByteTag tag other hdr => rw [scanFrom, if_pos (by omega), if_neg tag, if_pos hdr, if_neg other]

/-- At an entry that it does not skip the loop ends, with that entry or with nothing. -/
theorem scanFrom_of_last (hlast : ∀ k, ¬ NextEntry rd stop target marker i k) :
    scanFrom rd stop target marker (fuel + 1) i = some (off, len) ↔ MatchAt rd stop target marker off len i := by
  rw [scanFrom, MatchAt]
  split_ifs with hin hmarker htwo hhdr htarget hfit
  · exact absurd (.twoByteTag hmarker htwo) (hlast _)
  · simp [hmarker]
  · simp only [Option.some.injEq, Prod.mk.injEq]
    constructor
    · rintro ⟨rfl, rfl⟩
      exact ⟨hhdr, hmarker, htarget, rfl, rfl, hfit⟩
    · rintro ⟨_, _, _, rfl, rfl, _⟩
      exact ⟨rfl, rfl⟩
  · refine iff_of_false nofun ?_
    rintro ⟨_, _, _, rfl, rfl, h⟩
    exact hfit h
  · exact absurd (.oneByteTag hmarker htarget hhdr) (hlast _)
  · exact iff_of_false nofun fun h => hhdr h.1
  · exact iff_of_false nofun fun h => hin (by have := h.1; omega)

/-- The loop answers the match among the entries reached. A skipped entry takes two bytes or more, so fuel for the rest
of the window lasts to its end. -/
theorem scanFrom_eq_some_iff (hfuel : stop ≤ i + fuel) :
    scanFrom rd stop target marker fuel i = some (off, len) ↔
      ∃ j, EntryReached rd stop target marker i j ∧ MatchAt rd stop target marker off len j := by
  induction fuel generalizing i with
  | zero =>
    refine iff_of_false nofun ?_
    rintro ⟨j, hj, hhdr, _⟩
    have := hj.le
    omega
  | succ fuel ih =>
    by_cases hnext : ∃ k, NextEntry rd stop target marker i k
    · obtain ⟨k, hk⟩ := hnext
      have := hk.add_two_le
      rw [scanFrom_of_next hk, ih (by omega)]
      simp only [hk.entryReached_iff, or_and_right, exists_or, exists_eq_left, hk.not_matchAt, false_or]
    · have hlast := not_exists.mp hnext
      simp only [scanFrom_of_last hlast, entryReached_iff_of_last hlast, exists_eq_left]

/-! The bytes it reads (R182). -/

theorem EntryReached.congr (hrd : ∀ k, i ≤ k → k < stop → rd k = rd' k)
    (h : EntryReached rd stop target marker i j) : EntryReached rd' stop target marker i j := by
  induction h with
  | first => exact .first
  | afterTwoByteTag j hj tag hdr ih =>
    have := hj.le
    rw [hrd j (by omega) (by omega)] at tag
    rw [hrd (j + 2) (by omega) hdr]
    exact .afterTwoByteTag j ih tag hdr
  | afterOneByteTag j hj tag other hdr ih =>
    have := hj.le
    rw [hrd j (by omega) (by omega)] at tag other
    rw [hrd (j + 1) (by omega) hdr]
    exact .afterOneByteTag j ih tag other hdr

theorem MatchAt.congr (hrd : ∀ k, i ≤ k → k < stop → rd k = rd' k) (hle : i ≤ j)
    (h : MatchAt rd stop target marker off len j) : MatchAt rd' stop target marker off len j := by
  obtain ⟨hhdr, hmarker, htarget, hlen, hoff, hfit⟩ := h
  rw [hrd j hle (by omega)] at hmarker htarget
  rw [hrd (j + 1) (by omega) hhdr] at hlen
  exact ⟨hhdr, hmarker, htarget, hlen, hoff, hfit⟩

end Scan

theorem scan_eq_some_iff (s : State) (sel : Sel) (base n off : Nat) (target marker len : Byte) :
    scan s sel base n target marker = some (off, len) ↔
      ∃ i, EntryReached (bufRead s sel) (base + n) target marker base i ∧
        MatchAt (bufRead s sel) (base + n) target marker off len i :=
  scanFrom_eq_some_iff le_rfl

/-- What the scan finds, it finds in every buffer with the same bytes in the window (R182). -/
theorem scan_eq_some_congr (s t : State) (sel : Sel) (base n : Nat) (target marker : Byte)
    (h : ∀ k, base ≤ k → k < base + n → bufRead s sel k = bufRead t sel k) (slice : Nat × Byte)
    (hs : scan s sel base n target marker = some slice) : scan t sel base n target marker = some slice := by
  obtain ⟨off, len⟩ := slice
  obtain ⟨i, hi, hmatch⟩ := (scan_eq_some_iff s sel base n off target marker len).mp hs
  exact (scan_eq_some_iff t sel base n off target marker len).mpr ⟨i, hi.congr h, hmatch.congr h hi.le⟩

/-! FIND_TAG's edges (R180, R184). -/

theorem exec_findTag_busy (s : State) (tag : Byte) (sel : Sel) (hb : s.busy = true) (hp : s.pendErr = .ok) :
    exec (.findTag tag sel) s = .next (atLatency (findTagBody tag sel) s) :=
  congrArg _ (commandEdge_executes _ _ s hb hp)

theorem findTagBody_found (s : State) (tag : Byte) (sel : Sel) (off : Nat) (len : Byte)
    (h : scan s sel s.winBase.toNat s.winLen.toNat tag s.marker = some (off, len)) :
    findTagBody tag sel s = finish .ok { s with tlvOff := BitVec.ofNat 16 off, tlvLen := len, tlvFound := true } := by
  rw [findTagBody, h]

theorem findTagBody_notFound (s : State) (tag : Byte) (sel : Sel)
    (h : scan s sel s.winBase.toNat s.winLen.toNat tag s.marker = none) :
    findTagBody tag sel s = finish .notFound { s with tlvOff := 0#16, tlvLen := 0#8, tlvFound := false } := by
  rw [findTagBody, h]

end Sys2Proof.Machine
end

section
/-! The statements about the TLV scan and FIND_TAG's edges, settled. -/

namespace Sys2Proof.Machine

/-- Settles O16: the fuel lasts for the whole window, so the loop answers the match among the entries reached. -/
theorem scanFindsTheFirstMatchingEntry : Obligations.ScanFindsTheFirstMatchingEntry := scan_eq_some_iff

/-- Settles O17: each of two such scans finds what the other one finds; and where the target is the marker, a match would
need a tag that both is the marker and is not. -/
theorem scanReadsOnlyItsWindow : Obligations.ScanReadsOnlyItsWindow := by
  refine ⟨fun s t sel base n target marker h => Option.ext fun slice => ⟨?_, ?_⟩, fun s sel base n marker => ?_⟩
  · exact scan_eq_some_congr s t sel base n target marker h slice
  · exact scan_eq_some_congr t s sel base n target marker (fun k hle hlt => (h k hle hlt).symm) slice
  · rw [Option.eq_none_iff_forall_ne_some]
    rintro ⟨off, len⟩ hfound
    obtain ⟨i, _, _, hmarker, htarget, _⟩ := (scan_eq_some_iff s sel base n off marker marker len).mp hfound
    exact hmarker htarget

/-- Settles O30: the last edge of the latency, with and without a match, and an edge before it. -/
theorem findTagCompletesAtItsEdge : Obligations.FindTagCompletesAtItsEdge := by
  intro s tag sel hb hp
  rw [exec_findTag_busy s tag sel hb hp]
  refine ⟨fun off len hl hscan => ?_, fun hl hscan => ?_, fun hl => ?_⟩
  · rw [atLatency_last _ s hl.le, findTagBody_found s tag sel off len hscan]
    rfl
  · rw [atLatency_last _ s hl.le, findTagBody_notFound s tag sel hscan]
    rfl
  · rw [atLatency_wait _ s hl]

end Sys2Proof.Machine
end

section
/-! SUPPORT. Which command an edge finds, case by case, and a command's execution edge by PEND_ERR
(44_control.md R200 to R208). -/

namespace Sys2Proof.Machine

/-! The command an edge finds (R200, R201, R205, R208). -/

theorem fetch_busy (s : State) (hb : s.busy = true) (hw : cmdWord s.input.host ≠ some abortWord) :
    fetch s = executing s := by
  rw [fetch, if_pos hb, if_neg hw]

theorem fetch_busy_abort (s : State) (hb : s.busy = true) (hw : cmdWord s.input.host = some abortWord) :
    fetch s = some .abort := by
  rw [fetch, if_pos hb, if_pos hw]

theorem fetch_idle_write (s : State) (w : Word) (hb : s.busy = false) (hw : cmdWord s.input.host = some w) :
    fetch s = (decode w).toOption := by
  simp only [fetch, hb, hw, Bool.false_eq_true, if_false]

/-! A command's edge. -/

/-- Every command but ABORT has one execution-edge rule, guarded by PEND_ERR, beside its acceptance (R200, R202). -/
theorem exists_exec_eq_commandEdge (i : Instr) (hi : i ≠ .abort) :
    ∃ body, ∀ s, exec i s = .next (commandEdge i body s) := by
  cases i with
  | nop => exact ⟨nopBody, fun _ => rfl⟩
  | lcsGen len16 => exact ⟨lcsGenBody len16, fun _ => rfl⟩
  | dcsGen sel => exact ⟨atLatency (dcsGenBody sel), fun _ => rfl⟩
  | preStep byte => exact ⟨preStepBody byte, fun _ => rfl⟩
  | preClr => exact ⟨preClrBody, fun _ => rfl⟩
  | readFrame => exact ⟨readFrameBody, fun _ => rfl⟩
  | writeFrame => exact ⟨writeFrameBody, fun _ => rfl⟩
  | findTag tag sel => exact ⟨atLatency (findTagBody tag sel), fun _ => rfl⟩
  | abort => exact absurd rfl hi

theorem exec_busy_pending (s : State) (i : Instr) (hb : s.busy = true) (hp : s.pendErr ≠ .ok) (hi : i ≠ .abort) :
    exec i s = .next (finish s.pendErr s) := by
  obtain ⟨body, hexec⟩ := exists_exec_eq_commandEdge i hi
  rw [hexec s, commandEdge_busy i body s hb, unlessPending_err body s hp]

theorem exec_nop_busy (s : State) (hb : s.busy = true) (hp : s.pendErr = .ok) : exec .nop s = .next (nopBody s) :=
  congrArg _ (commandEdge_executes _ _ s hb hp)

end Sys2Proof.Machine
end

section
/-! The statements about the step and the control commands, settled. -/

namespace Sys2Proof.Machine

/-- Settles O4: in each of the three cases the command is the one that the edge finds. -/
theorem stepRunsTheCommand : Obligations.StepRunsTheCommand := by
  intro s t i hr _ hexec hcmd
  have hfetch : fetch s = some i := by
    rcases hcmd with ⟨hb, hw, hd, hi⟩ | ⟨hb, hw, rfl⟩ | ⟨hb, w, hw, hd⟩
    · exact (fetch_busy s hb hw).trans (executing_of_decode s i hd hi)
    · exact fetch_busy_abort s hb hw
    · rw [fetch_idle_write s w hb hw, hd, Except.toOption]
  exact step_of_fetch s t i hr hfetch hexec

/-- Settles O24: the guard on PEND_ERR comes before the command's own rule. -/
theorem pendingErrorCompletes : Obligations.PendingErrorCompletes :=
  fun s i hb hp hi => exec_busy_pending s i hb hp hi

/-- Settles O25. -/
theorem nopCompletes : Obligations.NopCompletes := fun s hb hp => exec_nop_busy s hb hp

end Sys2Proof.Machine
end

section
/-! The statement about the irq output (60_exceptions.md), settled. -/

namespace Sys2Proof.Machine

/-- CFG.IE is bit 0 of CFG (10_state.md R22). -/
theorem hostRead_cfg_ie (s : State) : (hostRead s 0x00004#18).getLsbD 0 = s.ie := by
  rw [hostRead_cfg, getLsbD_cfgWord s 0 (by decide), if_pos rfl]

/-- STATUS.DONE is bit 1 of STATUS (10_state.md R24). -/
theorem hostRead_status_done (s : State) : (hostRead s 0x0000C#18).getLsbD 1 = s.done := by
  rw [hostRead_status, getLsbD_statusWord s 1 (by decide), if_neg Nat.one_ne_zero, if_pos rfl]

/-- Settles O44: the two bits that the host reads are the two flags that drive irq. -/
theorem irqFollowsDone : Obligations.IrqFollowsDone := by
  intro s
  rw [hostRead_cfg_ie, hostRead_status_done, irq]

end Sys2Proof.Machine
end
